-- ==== Sys2Proof/Word.lean ====
section
/-! DEFINITION. The host word of RSA-ME (00_scope.md R6). A big-number value is a plain `Nat` (R7: "a natural number
0 <= v < 2^KMAX"); its bound is `Sys2Proof.Safety.WidthsOk`, which every step keeps. -/

namespace Sys2Proof

/-- One host-port word: 32 bits, bit 0 least significant (R6 `WORD`, R8). -/
abbrev Word := BitVec 32

end Sys2Proof
end

