-- ==== Sys2Proof/Config.lean ====
section
/-! DEFINITION. What a build of RSA-ME fixes (R6 `KMAX`) and the free values of the model (R6 `RNG`, R92).
Both are opaque: nothing in Lean can evaluate them, so a theorem holds for every value of them. -/

namespace Sys2Proof

/-- The open build parameter: the number of 32-bit words in a big-number window, less one. A `Fin 256`
is exactly the freedom R6 leaves (`KMAX mod 32 = 0`, `32 <= KMAX <= 8192`). -/
opaque Config.lwIndex : Fin 256

/-- `KMAX`, the width in bits of every big-number register (R6, decision D3: open). -/
def Config.kmax : Nat := 32 * (Config.lwIndex.val + 1)

/-- FREE VALUE: the number from which the RNG environment makes its `n`-th answer when no answer is
already waiting at the port (R92: the answers are a free input). `Machine.draw` brings it into the
range of the request, so every in-range answer is admitted and no other. -/
opaque Config.rng : Nat → Nat

end Sys2Proof
end

