-- ==== Sys2Proof/Syntax.lean ====
section
/-! DEFINITION. The nine commands of RSA-ME (30_encoding.md R47): one constructor per row of
spec/opcode_table.json. -/

namespace Sys2Proof

/-- A command. All operands but KEYGEN's immediate are implicit (R46). -/
inductive Instr where
  /-- MONTMUL, OP 0x1 (R55). -/
  | montmul
  /-- MODEXP, OP 0x2 (R57). -/
  | modexp
  /-- GCD, OP 0x3 (R60). -/
  | gcd
  /-- JACOBI, OP 0x4 (R61). -/
  | jacobi
  /-- MODINV, OP 0x5 (R63). -/
  | modinv
  /-- PRIMETEST, OP 0x6 (R67). -/
  | primetest
  /-- KEYGEN L, OP 0x7 (R71); `imm16` is RAD's bitLength, a natural number in 0..65535 (R46). -/
  | keygen (imm16 : Nat)
  /-- LDKEY.PUB, OP 0x8 (R80). -/
  | ldkeyPub
  /-- LDKEY.PRIV, OP 0x9 (R81). -/
  | ldkeyPriv
  deriving DecidableEq, Repr

end Sys2Proof
end

