-- ==== Sys2Proof/WellFormed.lean ====
section
/-! DEFINITION. Which instruction terms are commands of the hardware (R45, R46). -/

namespace Sys2Proof

/-- The immediate of KEYGEN is the 16-bit field `w[31:16]` (R46); no other command has an operand. -/
def Instr.wellFormed : Instr → Bool
  | .keygen imm16 => decide (imm16 < 2 ^ 16)
  | .montmul => true
  | .modexp => true
  | .gcd => true
  | .jacobi => true
  | .modinv => true
  | .primetest => true
  | .ldkeyPub => true
  | .ldkeyPriv => true

end Sys2Proof
end

