-- ==== Sys2Proof/Decode.lean ====
section
/-! DEFINITION. Command words: fields (R45), the decoder (R47, R48, R50) and the encoder (R47). -/

namespace Sys2Proof

/-- Field OP, `w[3:0]` (R45). -/
def opField (w : Word) : BitVec 4 := w.extractLsb' 0 4

/-- Field RSV, `w[15:4]`, which must be 0 (R45). -/
def rsvField (w : Word) : BitVec 12 := w.extractLsb' 4 12

/-- Field IMM16, `w[31:16]` (R45, R46). -/
def immField (w : Word) : BitVec 16 := w.extractLsb' 16 16

/-- Why a word names no command (R50): the three ways a word is illegal. -/
inductive IllegalWord where
  /-- OP is 0x0 or 0xA–0xF. -/
  | unknownOp
  /-- RSV ≠ 0. -/
  | reservedBits
  /-- OP ≠ 0x7 and IMM16 ≠ 0. -/
  | strayImmediate
  deriving DecidableEq, Repr

/-- What a 32-bit word written to CMD is: one of the nine commands or illegal; there is no third kind
of word (R51). -/
inductive Decoded where
  | command (i : Instr)
  | illegal (why : IllegalWord)
  deriving DecidableEq, Repr

/-- A command without operand: its IMM16 must be 0 (R45). -/
def decodePlain (w : Word) (i : Instr) : Decoded :=
  if immField w = 0 then .command i else .illegal .strayImmediate

/-- The decoder of R48, total on all 2^32 words. -/
def decode (w : Word) : Decoded :=
  if rsvField w = 0 then
    match (opField w).toNat with
    | 1 => decodePlain w .montmul
    | 2 => decodePlain w .modexp
    | 3 => decodePlain w .gcd
    | 4 => decodePlain w .jacobi
    | 5 => decodePlain w .modinv
    | 6 => decodePlain w .primetest
    | 7 => .command (.keygen (immField w).toNat)
    | 8 => decodePlain w .ldkeyPub
    | 9 => decodePlain w .ldkeyPriv
    | _ => .illegal .unknownOp
  else .illegal .reservedBits

/-- The operation code of a command, the OP column of R47. -/
def Instr.opcode : Instr → BitVec 4
  | .montmul => 0x1
  | .modexp => 0x2
  | .gcd => 0x3
  | .jacobi => 0x4
  | .modinv => 0x5
  | .primetest => 0x6
  | .keygen _ => 0x7
  | .ldkeyPub => 0x8
  | .ldkeyPriv => 0x9

/-- The IMM16 field of a command's word: KEYGEN's length, 0 for every other command (R45). -/
def Instr.immediate : Instr → BitVec 16
  | .keygen imm16 => BitVec.ofNat 16 imm16
  | .montmul => 0
  | .modexp => 0
  | .gcd => 0
  | .jacobi => 0
  | .modinv => 0
  | .primetest => 0
  | .ldkeyPub => 0
  | .ldkeyPriv => 0

/-- The command word, `IMM16` over `RSV = 0` over `OP` (R45, R47). -/
def encode (i : Instr) : Word := i.immediate ++ (0 : BitVec 12) ++ i.opcode

/-- The `mask` column of R47. -/
def Instr.mask : Instr → Word
  | .keygen _ => 0x0000FFFF
  | .montmul => 0xFFFFFFFF
  | .modexp => 0xFFFFFFFF
  | .gcd => 0xFFFFFFFF
  | .jacobi => 0xFFFFFFFF
  | .modinv => 0xFFFFFFFF
  | .primetest => 0xFFFFFFFF
  | .ldkeyPub => 0xFFFFFFFF
  | .ldkeyPriv => 0xFFFFFFFF

/-- The `match` column of R47. -/
def Instr.matchWord : Instr → Word
  | .montmul => 0x00000001
  | .modexp => 0x00000002
  | .gcd => 0x00000003
  | .jacobi => 0x00000004
  | .modinv => 0x00000005
  | .primetest => 0x00000006
  | .keygen _ => 0x00000007
  | .ldkeyPub => 0x00000008
  | .ldkeyPriv => 0x00000009

/-- The 32-bit word of a row of spec/opcode_table.json: its `nbits` low bits, every bit above them 0. -/
def tableWord (nbits w : Nat) : Word := BitVec.ofNat 32 (w % 2 ^ nbits)

/-- The instruction the decoder reads from a table row's word; the port moves whole 32-bit words and
has no byte order (R35). -/
def decodeTableWord (nbits w : Nat) : Option Instr :=
  match decode (tableWord nbits w) with
  | .command i => some i
  | .illegal _ => none

end Sys2Proof
end

