-- ==== Sys2Proof/Machine/State.lean ====
section
/-! DEFINITION. The state of RSA-ME (10_state.md R13) and of the agents around it (R3), the reasons a
step can stop, and the state after reset (R31). -/

namespace Sys2Proof.Machine

/-- PHASE, where the sequencer is inside a command (R25). The type has no codes 9–15: they never occur
(R25, U33). -/
inductive Phase where
  /-- No command in progress. -/
  | idle
  /-- The single step of a one-step command is pending. -/
  | exec
  /-- PRIMETEST: the deterministic checks are pending (R68). -/
  | ptCheck
  /-- PRIMETEST: T trials remain (R69). -/
  | ptTrial
  /-- KEYGEN step 1, shape check (R72). -/
  | kgShape
  /-- KEYGEN step 2, find p (R73). -/
  | kgP
  /-- KEYGEN step 3, find q (R74). -/
  | kgQ
  /-- KEYGEN step 4, length of p*q (R75). -/
  | kgCheck
  /-- Exponent derivation and the write of the key file (R77). -/
  | kgDerive
  deriving DecidableEq, Repr

/-- The error code held in ERR[1:0] (R21, R83). -/
inductive ErrCode where
  /-- 0: the command succeeded. -/
  | none
  /-- 1. -/
  | invalidArgument
  /-- 2. -/
  | arithmeticInconsistency
  /-- 3. -/
  | illegalCommand
  deriving DecidableEq, Repr

/-- A Jacobi symbol, and the content of the field JAC (R20, R62). 0b10 never occurs (R20, U33). -/
inductive Sym where
  | zero
  | plusOne
  | minusOne
  deriving DecidableEq, Repr

/-- The nine big-number registers that have a window on the host port (R33, R34). -/
inductive BigReg where
  | A | B | M | R | KN | KP | KQ | KE | KD
  deriving DecidableEq, Repr

/-- What a port offset addresses (R33). -/
inductive Target where
  | cmd | status | err | rounds | ctrl | kbits | pbits | config
  /-- Word `j` of the window of `x`, `0 <= j < 256`; it exists when `j < LW` (R34). -/
  | window (x : BigReg) (j : Nat)
  | reserved
  deriving DecidableEq, Repr

/-- A host-port offset. The port's address is a word index below 0x1000 (R36), so an unaligned offset
or a narrower access is no value of the type; the byte offset of R33 is `4 * index`. -/
abbrev PortIndex := Fin 0x1000

/-- A request on the RNG port (R92). -/
inductive Request where
  /-- `Bits(N)`: exactly N bits with the top bit set. -/
  | bits (n : Nat)
  /-- `Range(lo, hi)`. -/
  | range (lo hi : Nat)
  deriving DecidableEq, Repr

/-- Why a draw gives the sequencer no value (R92). -/
inductive DrawStop where
  /-- The environment gives no answer: the step is not enabled and the block waits (R44, U29). -/
  | noAnswer
  /-- The environment's answer is outside the range of the request: the run has no meaning (U30). -/
  | outOfRange
  deriving DecidableEq, Repr

/-- One move of one of the four agents of R3. The order of the moves is the interleaving of R40. -/
inductive Event where
  /-- The sequencer takes a step, if one is enabled (R44). -/
  | sequencer
  /-- `HostRead(4 * i)` (R32). -/
  | hostRead (i : PortIndex)
  /-- `HostWrite(4 * i, w)` (R32). -/
  | hostWrite (i : PortIndex) (w : Word)
  /-- The host script's `WAIT` (R53): read STATUS until DONE is set. -/
  | hostWait
  /-- The RNG environment gives its next answer (R92). DESIGN CHOICE (log entry 17): an answer carries no name of its
  request, so one that arrives while a request stands answers that request. -/
  | rngAnswer (v : Nat)
  /-- The RNG environment stops answering (`true`) or is ready again (`false`) (R92, R98). -/
  | rngSilence (b : Bool)
  /-- The reset input is asserted: the reset transition (R96). -/
  | resetAssert
  /-- The reset input is released (R96). -/
  | resetRelease
  deriving DecidableEq, Repr

/-- What stands around the block: the MODEL's own fields, none of them state of the block (R13, R29). -/
structure Env where
  /-- The agents' coming moves, oldest first; when none is left the sequencer runs alone. -/
  pending : List Event
  /-- The words the host has read, oldest first. -/
  received : List Word
  /-- Answers waiting at the RNG port, oldest first. -/
  answers : List Nat
  /-- The RNG environment answers nothing beyond `answers`. -/
  rngSilent : Bool
  /-- How many free answers have been given: the index of the next `Config.rng` value. -/
  drawn : Nat
  /-- The level of the reset input. -/
  resetIn : Bool
  deriving DecidableEq, Repr

/-- The architectural state of R13, and the environment. CMD is not stored (R19); BUSY and ERRF are
views of `phase` and `err` (R20); the `irq` output is a function of state (R30). -/
structure State where
  /-- A, operand register. -/
  a : Nat
  /-- B, operand register. -/
  b : Nat
  /-- M, operand register. -/
  m : Nat
  /-- R, result register. -/
  r : Nat
  /-- KN, key file: modulus n. -/
  kn : Nat
  /-- KP, key file: p. -/
  kp : Nat
  /-- KQ, key file: q. -/
  kq : Nat
  /-- KE, key file: e. -/
  ke : Nat
  /-- KD, key file: d. -/
  kd : Nat
  /-- KBITS, key file: bitLength. -/
  kbits : Word
  /-- PBITS: bitLength of the loaded projection. -/
  pbits : Word
  /-- STATUS.DONE. -/
  done : Bool
  /-- STATUS.DIAG. -/
  diag : Bool
  /-- STATUS.PRIME. -/
  prime : Bool
  /-- STATUS.JAC. -/
  jac : Sym
  /-- ERR[1:0]. -/
  err : ErrCode
  /-- ROUNDS. -/
  rounds : Word
  /-- CTRL.IE. -/
  ie : Bool
  /-- CONFIG, a constant: KMAX (R24). -/
  config : Word
  /-- PHASE. -/
  phase : Phase
  /-- OPC. -/
  opc : BitVec 4
  /-- C, hidden scratch: PRIMETEST's candidate. -/
  c : Nat
  /-- T, hidden scratch: trials remaining. -/
  t : BitVec 32
  /-- L, hidden scratch: requested bitLength. -/
  l : BitVec 16
  /-- H, hidden scratch: L / 2. -/
  h : BitVec 16
  /-- CP, hidden scratch: the accepted p. -/
  cp : Nat
  /-- CQ, hidden scratch: the accepted q. -/
  cq : Nat
  /-- The agents around the block. -/
  env : Env
  deriving DecidableEq, Repr

/-- Where the machine stops without a rule to go on by. -/
inductive Fault where
  /-- PHASE = EXEC while OPC names no one-step command: R26 gives the sequencer no step there. Raised by
  `Machine.sequencerStep`. Safe: `Safety.BlockInvariant` excludes the state and every step keeps it. -/
  | noStepDefined
  deriving DecidableEq, Repr

/-- What the model gives no meaning. -/
inductive Refusal where
  /-- An instruction without a meaning yet. Raised by `exec` only; no arm raises it now. Safe. -/
  | notModelled (mnemonic : String)
  /-- The RNG environment answered a draw outside the range of the request: "the spec gives such a run
  no meaning (a model refuses it)" (R92, U30). Raised by the drawing steps of PRIMETEST and KEYGEN. Safe. -/
  | rngAnswerOutOfRange
  deriving DecidableEq, Repr

/-- The environment of a machine to which nothing has happened (log entry 4: DESIGN CHOICE). -/
def Env.quiet : Env :=
  { pending := [], received := [], answers := [], rngSilent := false, drawn := 0, resetIn := false }

/-- The block at its reset values (R31): everything 0 but CONFIG, which reads `config`. -/
def State.resetAt (config : Word) (env : Env) : State :=
  { a := 0, b := 0, m := 0, r := 0, kn := 0, kp := 0, kq := 0, ke := 0, kd := 0, kbits := 0, pbits := 0,
    done := false, diag := false, prime := false, jac := .zero, err := .none, rounds := 0, ie := false,
    config := config, phase := .idle, opc := 0, c := 0, t := 0, l := 0, h := 0, cp := 0, cq := 0, env := env }

/-- The machine right after reset (R31, R96): CONFIG reads the build parameter KMAX. -/
def State.reset : State := State.resetAt (BitVec.ofNat 32 Config.kmax) Env.quiet

end Sys2Proof.Machine
end

