-- ==== Sys2Proof/Machine/Arith.lean ====
section
/-! DEFINITION. The arithmetic primitives of R9 and the units of R2, as functions on naturals: bit length,
modular exponentiation (R57, R58), the Jacobi symbol (R62), the inverse (R9, R64), the Montgomery product
(R55), one Solovay–Strassen trial (R65). Each is structurally recursive and runs on numerals. -/

namespace Sys2Proof.Machine

/-- E_FIXED, the fixed exponent e (R6). -/
def eFixed : Nat := 65537

/-- `bitlen(v)`: 0 for 0, else the k with `2^(k-1) <= v < 2^k` (R9). -/
def bitlen (v : Nat) : Nat := if v = 0 then 0 else Nat.log2 v + 1

/-- The loop of R58 over the exponent bits `i-1 .. 0`, left to right. -/
def modexpLoop (a b m : Nat) : Nat → Nat → Nat
  | 0, acc => acc
  | i + 1, acc =>
    modexpLoop a b m i (if b.testBit i then acc ^ 2 % m * (a % m) % m else acc ^ 2 % m)

/-- `modexp(a, b, m) = (a^b) mod m` (R9, R57), by the square-and-multiply of R58. -/
def modexp (a b m : Nat) : Nat := modexpLoop a b m (bitlen b) (1 % m)

/-- `-t` for a symbol. -/
def Sym.neg : Sym → Sym
  | .zero => .zero
  | .plusOne => .minusOne
  | .minusOne => .plusOne

/-- The symbol as a number in {-1, 0, 1} (R8 `sext`). -/
def Sym.toInt : Sym → Int
  | .zero => 0
  | .plusOne => 1
  | .minusOne => -1

/-- The loops of R62, one halving or one swap a turn; `turns` bounds their number. -/
def jacobiLoop : Nat → Nat → Nat → Sym → Sym
  | 0, _, _, _ => .zero
  | turns + 1, a, n, t =>
    if a = 0 then (if n = 1 then t else .zero)
    else if a % 2 = 0 then jacobiLoop turns (a / 2) n (if n % 8 = 3 ∨ n % 8 = 5 then t.neg else t)
    else jacobiLoop turns (n % a) a (if n % 4 = 3 ∧ a % 4 = 3 then t.neg else t)

/-- `J(a, n)` for odd n (R62). Every turn of the loops takes a bit off `a` and `n` together. -/
def jacobi (a n : Nat) : Sym := jacobiLoop (bitlen (a % n) + bitlen n + 1) (a % n) n .plusOne

/-- The loop of R64; `turns` bounds the number of divisions. -/
def invLoop : Nat → Nat → Nat → Int → Int → Int
  | 0, _, _, s0, _ => s0
  | turns + 1, r0, r1, s0, s1 =>
    if r1 = 0 then s0 else invLoop turns r1 (r0 % r1) s1 (s0 - ((r0 / r1 : Nat) : Int) * s1)

/-- `inv(a, m)` for `m >= 1` and `gcd(a, m) = 1`: the x with `0 <= x < m` and `a*x mod m = 1 mod m` (R9), by
the extended Euclidean algorithm of R64. -/
def inv (a m : Nat) : Nat :=
  if m = 1 then 0 else (invLoop (bitlen m + bitlen (a % m) + 1) m (a % m) 0 1 % (m : Int)).toNat

/-- The Montgomery product of R55, `a*b*2^(-kmax) mod m`. -/
def montgomery (kmax a b m : Nat) : Nat := a * b * inv (2 ^ kmax % m) m % m

/-- The residue a symbol stands for modulo `c` (R65). -/
def Sym.expected (c : Nat) : Sym → Nat
  | .zero => 0
  | .plusOne => 1
  | .minusOne => c - 1

/-- `Trial(c, a)` (R65): a nonzero symbol that `a^((c-1)/2) mod c` matches. -/
def trial (c a : Nat) : Bool :=
  decide (jacobi a c ≠ .zero) && decide (modexp a ((c - 1) / 2) c = (jacobi a c).expected c)

/-- `(p-1)*(q-1)`, the number RAD calls φ (R76; `90_conflicts.md` C2). -/
def totient (p q : Nat) : Nat := (p - 1) * (q - 1)

end Sys2Proof.Machine
end

