-- ==== Sys2Proof/Machine/Ops.lean ====
section
/-! DEFINITION. The named operations over State that several rules share: build parameter, register access,
beginning and ending a command (R48, R49), RAISING AN ERROR (R83, R86), draws (R92), reset (R96), and the shape
every command has (R26). -/

namespace Sys2Proof.Machine

/-- KMAX as the block holds it, in CONFIG (R6, R24). -/
def State.kmax (s : State) : Nat := s.config.toNat

/-- LW, the number of words in a big-number window (R6). -/
def State.lw (s : State) : Nat := s.kmax / 32

/-- The value of a big-number register (R13). -/
def State.big (s : State) : BigReg → Nat
  | .A => s.a
  | .B => s.b
  | .M => s.m
  | .R => s.r
  | .KN => s.kn
  | .KP => s.kp
  | .KQ => s.kq
  | .KE => s.ke
  | .KD => s.kd

/-- The host's write of a big-number register: A, B and M are writable, R and the key file are read-only
(R13, R36). -/
def State.setBig (s : State) (x : BigReg) (v : Nat) : State :=
  match x with
  | .A => { s with a := v }
  | .B => { s with b := v }
  | .M => { s with m := v }
  | .R => s
  | .KN => s
  | .KP => s
  | .KQ => s
  | .KE => s
  | .KD => s

/-- ERR as a number (R83). -/
def ErrCode.code : ErrCode → BitVec 2
  | .none => 0
  | .invalidArgument => 1
  | .arithmeticInconsistency => 2
  | .illegalCommand => 3

/-- PHASE as a number (R25). -/
def Phase.code : Phase → BitVec 4
  | .idle => 0
  | .exec => 1
  | .ptCheck => 2
  | .ptTrial => 3
  | .kgShape => 4
  | .kgP => 5
  | .kgQ => 6
  | .kgCheck => 7
  | .kgDerive => 8

/-- Taking a CMD word while idle: `DONE <- 0 ; ERR <- 0 ; OPC <- w[3:0]`, before anything else (R48). -/
def State.begin (s : State) (op : BitVec 4) : State := { s with done := false, err := .none, opc := op }

/-- `Complete(code)` (R49): the last action of the transition that ends a command. -/
def State.complete (s : State) (code : ErrCode) : State :=
  { s with err := code, phase := .idle, done := true }

/-- `raise X` (R10, R86): `Complete(code of X)` and nothing else. The ONE way an error is taken: no state is
saved and control goes nowhere; the return is the next CMD write (R88). -/
def State.raise (s : State) (e : ErrCode) : State := s.complete e

/-- Entering a phase: BUSY is then 1 (R48, R20). -/
def State.enter (s : State) (p : Phase) : State := { s with phase := p }

/-- The command an EXEC phase belongs to, by OPC (R25, R26). -/
def oneStepCommand (opc : BitVec 4) : Option Instr :=
  match opc.toNat with
  | 1 => some .montmul
  | 2 => some .modexp
  | 3 => some .gcd
  | 4 => some .jacobi
  | 5 => some .modinv
  | 8 => some .ldkeyPub
  | 9 => some .ldkeyPriv
  | _ => none

/-- The command in progress: what (OPC, PHASE) say (R25); KEYGEN's immediate is then in L (R71). -/
def State.current (s : State) : Option Instr :=
  match s.phase with
  | .idle => none
  | .exec => oneStepCommand s.opc
  | .ptCheck => some .primetest
  | .ptTrial => some .primetest
  | .kgShape => some (.keygen s.l.toNat)
  | .kgP => some (.keygen s.l.toNat)
  | .kgQ => some (.keygen s.l.toNat)
  | .kgCheck => some (.keygen s.l.toNat)
  | .kgDerive => some (.keygen s.l.toNat)

/-- The shape of every command (R26, R38, R48). Idle: the command is taken, its argument check fires or its
acceptance actions are done. In progress: its next atomic step. While the block is busy with another command:
ignored, no state changes. -/
def transact (i : Instr) (refuse : Bool) (accept : State → State)
    (advance : State → Host.Outcome State Fault Refusal) (s : State) : Host.Outcome State Fault Refusal :=
  if s.phase = .idle then
    .next (if refuse then (s.begin i.opcode).raise .invalidArgument else accept (s.begin i.opcode))
  else if s.current = some i then advance s
  else .next s

/-- Least answer of a request (R92). -/
def Request.low : Request → Nat
  | .bits n => 2 ^ (n - 1)
  | .range lo _ => lo

/-- Greatest answer of a request (R92). -/
def Request.high : Request → Nat
  | .bits n => 2 ^ n - 1
  | .range _ hi => hi

/-- `Draw(req)` (R92): the answer waiting at the port if there is one, refused when out of range; else, from an
environment that answers, a FREE VALUE in the range (log entry 2). A request with an empty range has no
answer. -/
def draw (q : Request) (e : Env) : Except DrawStop (Nat × Env) :=
  if q.high < q.low then .error .noAnswer
  else
    match e.answers with
    | v :: rest =>
      if q.low ≤ v ∧ v ≤ q.high then .ok (v, { e with answers := rest }) else .error .outOfRange
    | [] =>
      if e.rngSilent then .error .noAnswer
      else .ok (q.low + Config.rng e.drawn % (q.high - q.low + 1), { e with drawn := e.drawn + 1 })

/-- The end of a drawing step: without all its answers it is not enabled and nothing happens (R44, R92); an
answer out of range gives the run no meaning (R92). -/
def settle (s : State) (r : Except DrawStop State) : Host.Outcome State Fault Refusal :=
  match r with
  | .ok t => .next t
  | .error .noAnswer => .next s
  | .error .outOfRange => .refused .rngAnswerOutOfRange

/-- The phases whose step draws (R92). -/
def Phase.draws : Phase → Bool
  | .ptTrial => true
  | .kgShape => true
  | .kgP => true
  | .kgQ => true
  | .idle => false
  | .exec => false
  | .ptCheck => false
  | .kgCheck => false
  | .kgDerive => false

/-- The request the pending step issues first: what stands on the RNG port (R92). -/
def State.request (s : State) : Option Request :=
  if s.phase.draws then
    some (if s.phase = .ptTrial then .range 2 (s.c - 1) else .bits s.h.toNat)
  else none

/-- The reset transition (R96, R97): every piece of the block's state to its reset value, whatever the phase;
an answer waiting for a draw request of the abandoned command is dropped. -/
def State.resetBlock (s : State) : State := State.resetAt s.config { s.env with answers := [] }

/-- The agents' coming moves replaced. -/
def State.withPending (s : State) (evs : List Event) : State := { s with env := { s.env with pending := evs } }

/-- The host receives a word. -/
def State.receive (s : State) (w : Word) : State :=
  { s with env := { s.env with received := s.env.received ++ [w] } }

/-- An answer arrives at the RNG port. -/
def State.pushAnswer (s : State) (v : Nat) : State :=
  { s with env := { s.env with answers := s.env.answers ++ [v] } }

/-- The RNG environment falls silent or is ready again. -/
def State.setSilent (s : State) (b : Bool) : State := { s with env := { s.env with rngSilent := b } }

/-- The level of the reset input. -/
def State.setResetIn (s : State) (b : Bool) : State := { s with env := { s.env with resetIn := b } }

end Sys2Proof.Machine
end

