-- ==== Sys2Proof/Machine/Flags.lean ====
section
/-! DEFINITION. The flags and the status words: STATUS (R20, R28), ERR (R21), CTRL (R23), `irq` (R30, R90). No
command's arithmetic reads a flag (R28). -/

namespace Sys2Proof.Machine

/-- BUSY: 1 exactly when PHASE ≠ IDLE (R20). -/
def State.busy (s : State) : Bool := decide (s.phase ≠ .idle)

/-- ERRF: 1 exactly when ERR ≠ 0 (R20). -/
def State.errf (s : State) : Bool := decide (s.err ≠ .none)

/-- The field JAC, 2-bit two's complement (R20). -/
def Sym.bits : Sym → BitVec 2
  | .zero => 0b00
  | .plusOne => 0b01
  | .minusOne => 0b11

/-- The word STATUS reads (R20). -/
def State.statusWord (s : State) : Word :=
  (0 : BitVec 16) ++ s.opc ++ s.phase.code ++ (0 : BitVec 1) ++ s.jac.bits ++ BitVec.ofBool s.prime ++
    BitVec.ofBool s.diag ++ BitVec.ofBool s.errf ++ BitVec.ofBool s.done ++ BitVec.ofBool s.busy

/-- The word ERR reads (R21). -/
def State.errWord (s : State) : Word := s.err.code.setWidth 32

/-- The word CTRL reads: only IE exists (R23). -/
def State.ctrlWord (s : State) : Word := (BitVec.ofBool s.ie).setWidth 32

/-- A host write to STATUS: write-1-to-clear on DONE and DIAG, nothing else (R20, R38). -/
def State.writeStatus (s : State) (w : Word) : State :=
  { s with done := s.done && !w.getLsbD 1, diag := s.diag && !w.getLsbD 3 }

/-- A host write to CTRL: `IE <- w[0]` (R23, R38). -/
def State.writeCtrl (s : State) (w : Word) : State := { s with ie := w.getLsbD 0 }

/-- The interrupt output, `CTRL.IE AND STATUS.DONE` (R30, R90). -/
def State.irq (s : State) : Bool := s.ie && s.done

/-- JAC written by JACOBI (R61). -/
def State.setJac (s : State) (j : Sym) : State := { s with jac := j }

/-- PRIME written by PRIMETEST (R68, R69). -/
def State.setPrime (s : State) (p : Bool) : State := { s with prime := p }

/-- DIAG set when KEYGEN's self-check fails; sticky (R77, R89). -/
def State.noteSelfCheck (s : State) (ok : Bool) : State := { s with diag := s.diag || !ok }

end Sys2Proof.Machine
end

