-- ==== Sys2Proof/Machine/Operands.lean ====
section
/-! DEFINITION. Operands: the argument check of every command (R48; all operands but KEYGEN's immediate are
implicit, R46), and the words of a big-number window (R34). -/

namespace Sys2Proof.Machine

/-- MONTMUL's check: `M = 0`, M even, `A >= M` or `B >= M` (R55). -/
def montmulRefused (s : State) : Bool :=
  decide (s.m = 0) || decide (s.m % 2 = 0) || decide (s.m ≤ s.a) || decide (s.m ≤ s.b)

/-- MODEXP's check: `M = 0` (R57). -/
def modexpRefused (s : State) : Bool := decide (s.m = 0)

/-- GCD has no check (R60). -/
def gcdRefused (_ : State) : Bool := false

/-- JACOBI's check: `M = 0` or M even (R61). -/
def jacobiRefused (s : State) : Bool := decide (s.m = 0) || decide (s.m % 2 = 0)

/-- MODINV's check: `M = 0` (R63). -/
def modinvRefused (s : State) : Bool := decide (s.m = 0)

/-- PRIMETEST's check: `ROUNDS = 0` (R67). -/
def primetestRefused (s : State) : Bool := decide (s.rounds = 0)

/-- KEYGEN's check: `L = 0`, L odd, `ROUNDS = 0` or `L > KMAX` (R71). -/
def keygenRefused (imm16 : Nat) (s : State) : Bool :=
  decide (imm16 = 0) || decide (imm16 % 2 = 1) || decide (s.rounds = 0) || decide (s.kmax < imm16)

/-- LDKEY.PUB's check: `KN = 0` or `KD = 0` (R80). -/
def ldkeyPubRefused (s : State) : Bool := decide (s.kn = 0) || decide (s.kd = 0)

/-- LDKEY.PRIV's check: `KN = 0` or `KE = 0` (R81). -/
def ldkeyPrivRefused (s : State) : Bool := decide (s.kn = 0) || decide (s.ke = 0)

/-- Word `j` of a big-number value, `X[32*j+31 : 32*j]` (R34). -/
def wordOf (x : Nat) (j : Nat) : Word := BitVec.ofNat 32 (x / 2 ^ (32 * j))

/-- `x` with exactly the bits `32*j+31 : 32*j` replaced by `w` (R34). -/
def putWord (x : Nat) (j : Nat) (w : Word) : Nat :=
  x / 2 ^ (32 * (j + 1)) * 2 ^ (32 * (j + 1)) + w.toNat * 2 ^ (32 * j) + x % 2 ^ (32 * j)

/-- The word a window offset reads: words `j >= LW` do not exist and read 0 (R34). -/
def State.windowRead (s : State) (x : BigReg) (j : Nat) : Word :=
  if j < s.lw then wordOf (s.big x) j else 0

/-- A host write to a window word: ignored where the word does not exist or the register is read-only
(R34, R36). -/
def State.windowWrite (s : State) (x : BigReg) (j : Nat) (w : Word) : State :=
  if j < s.lw then s.setBig x (putWord (s.big x) j w) else s

end Sys2Proof.Machine
end

