-- ==== Sys2Proof/Machine/PrimeTest.lean ====
section
/-! DEFINITION. The probabilistic primality test: `PTest` (R66) and PRIMETEST (R67 to R69). -/

namespace Sys2Proof.Machine

/-- The trials of R66: at most `r` draws, stopping at the first match. -/
def pTrials (c : Nat) : Nat → Env → Except DrawStop (Bool × Env)
  | 0, e => .ok (false, e)
  | r + 1, e =>
    match draw (.range 2 (c - 1)) e with
    | .ok (w, e') => if trial c w then .ok (true, e') else pTrials c r e'
    | .error x => .error x

/-- `PTest(c, r, draw)` (R66). -/
def pTest (c r : Nat) (e : Env) : Except DrawStop (Bool × Env) :=
  if c < 2 then .ok (false, e)
  else if c = 2 then .ok (true, e)
  else if c % 2 = 0 then .ok (false, e)
  else pTrials c r e

/-- PRIME written and the command completed (R68, R69). -/
def State.verdict (s : State) (p : Bool) : State := (s.setPrime p).complete .none

/-- PRIMETEST's acceptance actions (R67): `C <- A ; T <- ROUNDS ; PHASE <- PT_CHECK`. -/
def primetestAccept (s : State) : State := { s with c := s.a, t := s.rounds }.enter .ptCheck

/-- The PT_CHECK step (R68). -/
def ptCheckStep (s : State) : Host.Outcome State Fault Refusal :=
  .next (if s.c < 2 then s.verdict false
    else if s.c = 2 then s.verdict true
    else if s.c % 2 = 0 then s.verdict false
    else s.enter .ptTrial)

/-- The PT_TRIAL step (R69): one draw, one trial. -/
def ptTrialStep (s : State) : Host.Outcome State Fault Refusal :=
  settle s (match draw (.range 2 (s.c - 1)) s.env with
    | .ok (w, e) =>
      let s' := { s with env := e }
      .ok (if trial s.c w then s'.verdict true
        else if s.t - 1 = 0 then { s' with t := s.t - 1 }.verdict false
        else { s' with t := s.t - 1 })
    | .error x => .error x)

/-- PRIMETEST in progress: the step of its phase (R26). -/
def primetestStep (s : State) : Host.Outcome State Fault Refusal :=
  if s.phase = .ptCheck then ptCheckStep s else ptTrialStep s

/-- PRIMETEST (R67). -/
def execPrimetest (s : State) : Host.Outcome State Fault Refusal :=
  transact .primetest (primetestRefused s) primetestAccept primetestStep s

end Sys2Proof.Machine
end

