-- ==== Sys2Proof/Machine/KeyGen.lean ====
section
/-! DEFINITION. KEYGEN, the rejection-sampling controller (43_keygen.md). -/

namespace Sys2Proof.Machine

/-- KEYGEN's acceptance actions (R71): L and H are loaded, the key file is zeroed. -/
def keygenAccept (imm16 : Nat) (s : State) : State :=
  { s with
    l := BitVec.ofNat 16 imm16, h := BitVec.ofNat 16 (imm16 / 2),
    kn := 0, kp := 0, kq := 0, ke := 0, kd := 0, kbits := 0 }.enter .kgShape

/-- The KG_SHAPE step (R72): two draws, used for nothing but the length of their product. -/
def kgShapeStep (s : State) : Host.Outcome State Fault Refusal :=
  settle s (match draw (.bits s.h.toNat) s.env with
    | .error x => .error x
    | .ok (x, e) =>
      match draw (.bits s.h.toNat) e with
      | .error x => .error x
      | .ok (y, e') =>
        .ok ({ s with env := e' }.enter (if bitlen (x * y) = s.l.toNat then .kgP else .kgShape)))

/-- A candidate of exactly H bits and the whole test of it: the draws of R73 and R74. -/
def candidate (s : State) : Except DrawStop ((Nat × Bool) × Env) :=
  match draw (.bits s.h.toNat) s.env with
  | .error x => .error x
  | .ok (c, e) =>
    match pTest c s.rounds.toNat e with
    | .error x => .error x
    | .ok (ok, e') => .ok ((c, ok), e')

/-- The KG_P step (R73). -/
def kgPStep (s : State) : Host.Outcome State Fault Refusal :=
  settle s (match candidate s with
    | .error x => .error x
    | .ok ((c, ok), e) =>
      .ok (if ok then { s with env := e, cp := c }.enter .kgQ else { s with env := e }))

/-- The KG_Q step (R74): nothing relates q to p. -/
def kgQStep (s : State) : Host.Outcome State Fault Refusal :=
  settle s (match candidate s with
    | .error x => .error x
    | .ok ((c, ok), e) =>
      .ok (if ok then { s with env := e, cq := c }.enter .kgCheck else { s with env := e }))

/-- The KG_CHECK step (R75): wrong length of `p*q`, start again at the shape check. -/
def kgCheckStep (s : State) : Host.Outcome State Fault Refusal :=
  .next (s.enter (if bitlen (s.cp * s.cq) = s.l.toNat then .kgDerive else .kgShape))

/-- `Derive(p, q)` (R76): `none` is its failure, else `(e, d, ok)`. -/
def derive (p q : Nat) : Option (Nat × Nat × Bool) :=
  if Nat.gcd eFixed (totient p q) = 1 then
    let d := inv eFixed (totient p q)
    some (eFixed, d, decide (eFixed * d % totient p q = 1))
  else none

/-- The KG_DERIVE step (R77): the key file is written whole or stays zero; a failed self-check is a
diagnostic, not an error. -/
def kgDeriveStep (s : State) : Host.Outcome State Fault Refusal :=
  .next (match derive s.cp s.cq with
    | none => s.raise .arithmeticInconsistency
    | some (e, d, ok) =>
      { s.noteSelfCheck ok with
        kn := s.cp * s.cq, kp := s.cp, kq := s.cq, ke := e, kd := d,
        kbits := s.l.setWidth 32 }.complete .none)

/-- KEYGEN in progress: the step of its phase (R26). -/
def keygenStep (s : State) : Host.Outcome State Fault Refusal :=
  match s.phase with
  | .kgShape => kgShapeStep s
  | .kgP => kgPStep s
  | .kgQ => kgQStep s
  | .kgCheck => kgCheckStep s
  | .kgDerive => kgDeriveStep s
  | .idle => .next s
  | .exec => .next s
  | .ptCheck => .next s
  | .ptTrial => .next s

/-- KEYGEN L (R71). -/
def execKeygen (imm16 : Nat) (s : State) : Host.Outcome State Fault Refusal :=
  transact (.keygen imm16) (keygenRefused imm16 s) (keygenAccept imm16) keygenStep s

end Sys2Proof.Machine
end

