-- ==== Sys2Proof/Machine/KeyLoad.lean ====
section
/-! DEFINITION. The key projections LDKEY.PUB and LDKEY.PRIV (44_keyload.md). RAD's naming is reversed and kept
so: PUB loads d, PRIV loads e (R82, `90_conflicts.md` C5). -/

namespace Sys2Proof.Machine

/-- A projection by value: modulus to M, exponent to B, bitLength to PBITS (R80, R81). -/
def State.project (s : State) (exponent : Nat) : State :=
  { s with m := s.kn, b := exponent, pbits := s.kbits }

/-- The EXEC step of LDKEY.PUB (R80): `M <- KN ; B <- KD ; PBITS <- KBITS`. -/
def ldkeyPubStep (s : State) : Host.Outcome State Fault Refusal :=
  .next ((s.project s.kd).complete .none)

/-- LDKEY.PUB (R80). -/
def execLdkeyPub (s : State) : Host.Outcome State Fault Refusal :=
  transact .ldkeyPub (ldkeyPubRefused s) (fun t => t.enter .exec) ldkeyPubStep s

/-- The EXEC step of LDKEY.PRIV (R81): `M <- KN ; B <- KE ; PBITS <- KBITS`. -/
def ldkeyPrivStep (s : State) : Host.Outcome State Fault Refusal :=
  .next ((s.project s.ke).complete .none)

/-- LDKEY.PRIV (R81). -/
def execLdkeyPriv (s : State) : Host.Outcome State Fault Refusal :=
  transact .ldkeyPriv (ldkeyPrivRefused s) (fun t => t.enter .exec) ldkeyPrivStep s

end Sys2Proof.Machine
end

