-- ==== Sys2Proof/Machine/ModArith.lean ====
section
/-! DEFINITION. MONTMUL and MODEXP (40_modarith.md). -/

namespace Sys2Proof.Machine

/-- The EXEC step of MONTMUL (R55): `R <- (A * B * Rinv) mod M`. -/
def montmulStep (s : State) : Host.Outcome State Fault Refusal :=
  .next ({ s with r := montgomery s.kmax s.a s.b s.m }.complete .none)

/-- MONTMUL (R55). -/
def execMontmul (s : State) : Host.Outcome State Fault Refusal :=
  transact .montmul (montmulRefused s) (fun t => t.enter .exec) montmulStep s

/-- The EXEC step of MODEXP (R57): `R <- modexp(A, B, M)`. -/
def modexpStep (s : State) : Host.Outcome State Fault Refusal :=
  .next ({ s with r := modexp s.a s.b s.m }.complete .none)

/-- MODEXP (R57). -/
def execModexp (s : State) : Host.Outcome State Fault Refusal :=
  transact .modexp (modexpRefused s) (fun t => t.enter .exec) modexpStep s

end Sys2Proof.Machine
end

