-- ==== Sys2Proof/Machine/NumTheory.lean ====
section
/-! DEFINITION. GCD, JACOBI and MODINV (41_numtheory.md). -/

namespace Sys2Proof.Machine

/-- The EXEC step of GCD (R60): `R <- gcd(A, B)`. -/
def gcdStep (s : State) : Host.Outcome State Fault Refusal :=
  .next ({ s with r := Nat.gcd s.a s.b }.complete .none)

/-- GCD (R60). -/
def execGcd (s : State) : Host.Outcome State Fault Refusal :=
  transact .gcd (gcdRefused s) (fun t => t.enter .exec) gcdStep s

/-- The EXEC step of JACOBI (R61): `JAC <- J(A, M)`. -/
def jacobiStep (s : State) : Host.Outcome State Fault Refusal :=
  .next ((s.setJac (jacobi s.a s.m)).complete .none)

/-- JACOBI (R61). -/
def execJacobi (s : State) : Host.Outcome State Fault Refusal :=
  transact .jacobi (jacobiRefused s) (fun t => t.enter .exec) jacobiStep s

/-- The EXEC step of MODINV (R63): ArithmeticInconsistency where A has no inverse, R unchanged. -/
def modinvStep (s : State) : Host.Outcome State Fault Refusal :=
  .next (if Nat.gcd s.a s.m = 1 then { s with r := inv s.a s.m }.complete .none
    else s.raise .arithmeticInconsistency)

/-- MODINV (R63). -/
def execModinv (s : State) : Host.Outcome State Fault Refusal :=
  transact .modinv (modinvRefused s) (fun t => t.enter .exec) modinvStep s

end Sys2Proof.Machine
end

