-- ==== Sys2Proof/Machine/Dispatch.lean ====
section
/-! DEFINITION. `exec`: the next atomic transition of a command (R26, R48); one arm per constructor of Instr. -/

namespace Sys2Proof.Machine

def exec (i : Instr) (s : State) : Host.Outcome State Fault Refusal :=
  match i with
  | .montmul => Sys2Proof.Machine.execMontmul s
  | .modexp => Sys2Proof.Machine.execModexp s
  | .gcd => Sys2Proof.Machine.execGcd s
  | .jacobi => Sys2Proof.Machine.execJacobi s
  | .modinv => Sys2Proof.Machine.execModinv s
  | .primetest => Sys2Proof.Machine.execPrimetest s
  | .keygen imm16 => Sys2Proof.Machine.execKeygen imm16 s
  | .ldkeyPub => Sys2Proof.Machine.execLdkeyPub s
  | .ldkeyPriv => Sys2Proof.Machine.execLdkeyPriv s

end Sys2Proof.Machine
end

