-- ==== Sys2Proof/Machine/Port.lean ====
section
/-! DEFINITION. The host port: address map (R33), reads (R36, R37) and the writes that start no command
(R36, R38). -/

namespace Sys2Proof.Machine

/-- The index of a byte offset that is a multiple of 4 below 0x4000 (R32, R36). -/
def portIndex (offset : Nat) : PortIndex := Fin.ofNat 0x1000 (offset / 4)

/-- Nat-number register number `i` (R33). -/
def bigRegOf (i : Nat) : Option BigReg :=
  match i with
  | 0 => some .A
  | 1 => some .B
  | 2 => some .M
  | 3 => some .R
  | 4 => some .KN
  | 5 => some .KP
  | 6 => some .KQ
  | 7 => some .KE
  | 8 => some .KD
  | _ => none

/-- The register number of a window (R33). -/
def BigReg.index : BigReg → Nat
  | .A => 0
  | .B => 1
  | .M => 2
  | .R => 3
  | .KN => 4
  | .KP => 5
  | .KQ => 6
  | .KE => 7
  | .KD => 8

/-- The offset of word `j` of the window of a register, `base(X) + 4*j` (R33, R34). -/
def windowIndex (x : BigReg) (j : Nat) : PortIndex := portIndex (0x1000 + 0x400 * x.index + 4 * j)

/-- What byte offset `4 * i` addresses (R33). The windows start at 0x1000 and are 0x400 bytes apart. -/
def target (i : PortIndex) : Target :=
  if i.val < 0x400 then
    match 4 * i.val with
    | 0x0000 => .cmd
    | 0x0004 => .status
    | 0x0008 => .err
    | 0x000C => .rounds
    | 0x0010 => .ctrl
    | 0x0014 => .kbits
    | 0x0018 => .pbits
    | 0x001C => .config
    | _ => .reserved
  else
    match bigRegOf ((4 * i.val - 0x1000) / 0x400) with
    | some x => .window x ((4 * i.val - 0x1000) % 0x400 / 4)
    | none => .reserved

/-- The word a target reads (R36, R37): CMD, a reserved offset and a non-existent window word read 0. -/
def State.readTarget (s : State) : Target → Word
  | .cmd => 0
  | .status => s.statusWord
  | .err => s.errWord
  | .rounds => s.rounds
  | .ctrl => s.ctrlWord
  | .kbits => s.kbits
  | .pbits => s.pbits
  | .config => s.config
  | .window x j => s.windowRead x j
  | .reserved => 0

/-- The answer of `HostRead(4 * i)` (R37): the current word; a read changes nothing. -/
def State.hostRead (s : State) (i : PortIndex) : Word := s.readTarget (target i)

/-- `HostWrite` on a target other than CMD (R38). STATUS and CTRL are honoured in every phase; ROUNDS and the
windows of A, B, M only while idle; everything else is ignored (R36). -/
def State.writeTarget (s : State) (tg : Target) (w : Word) : State :=
  match tg with
  | .status => s.writeStatus w
  | .ctrl => s.writeCtrl w
  | .rounds => if s.phase = .idle then { s with rounds := w } else s
  | .window x j => if s.phase = .idle then s.windowWrite x j w else s
  | .cmd => s
  | .err => s
  | .kbits => s
  | .pbits => s
  | .config => s
  | .reserved => s

end Sys2Proof.Machine
end

