-- ==== Sys2Proof/Machine/Events.lean ====
section
/-! DEFINITION. The moves of the four agents of R3: the sequencer's step (R26, R44), the host's transactions
(R32, R38, R48), the RNG environment's answers (R92), the reset input (R96); and the placing of a command
word where the next step takes it. -/

namespace Sys2Proof.Machine

/-- The sequencer's step (R26): the next step of the command in progress. Idle: the block takes no step (R25). -/
def sequencerStep (s : State) : Host.Outcome State Fault Refusal :=
  match s.current with
  | some i => exec i s
  | none => if s.phase = .idle then .next s else .fault .noStepDefined

/-- A word taken from CMD while idle (R48, R50). -/
def takeWord (s : State) (w : Word) : Host.Outcome State Fault Refusal :=
  match decode w with
  | .command i => exec i s
  | .illegal _ => .next ((s.begin (opField w)).raise .illegalCommand)

/-- `HostWrite(4 * i, w)` (R38): a CMD write is taken while idle and ignored while busy. -/
def hostWrite (s : State) (i : PortIndex) (w : Word) : Host.Outcome State Fault Refusal :=
  if target i = .cmd then (if s.phase = .idle then takeWord s w else .next s)
  else .next (s.writeTarget (target i) w)

/-- What the host port reads: while the reset input is asserted, the reset values (R96). -/
def State.portRead (s : State) (i : PortIndex) : Word :=
  if s.env.resetIn then s.resetBlock.hostRead i else s.hostRead i

/-- One poll of `WAIT` (R53): STATUS is read; without DONE the sequencer moves and the host polls again. -/
def pollDone (s : State) : State :=
  let w := s.portRead (portIndex 0x0004)
  let s' := s.receive w
  if w.getLsbD 1 then s' else s'.withPending (.sequencer :: .hostWait :: s'.env.pending)

/-- One move of an agent. While the reset input is asserted the block takes no step and no host write (R96); an
answer to no outstanding draw request is discarded (R97; log entry 8). DESIGN CHOICE (log entry 17): an answer that
arrives while a request stands is that request's, even after a reset that dropped an earlier one; a late answer that the
block discards is no move of the model. -/
def perform (ev : Event) (s : State) : Host.Outcome State Fault Refusal :=
  match ev with
  | .sequencer => if s.env.resetIn then .next s else sequencerStep s
  | .hostRead i => .next (s.receive (s.portRead i))
  | .hostWrite i w => if s.env.resetIn then .next s else hostWrite s i w
  | .hostWait => .next (pollDone s)
  | .rngAnswer v => .next (if s.phase.draws && !s.env.resetIn then s.pushAnswer v else s)
  | .rngSilence b => .next (s.setSilent b)
  | .resetAssert => .next (s.resetBlock.setResetIn true)
  | .resetRelease => .next (s.setResetIn false)

/-- The next move: the oldest of the agents' moves still to come; when none is left, the sequencer's (R44). -/
def moveOnce (s : State) : Host.Outcome State Fault Refusal :=
  match s.env.pending with
  | [] => perform .sequencer s
  | ev :: rest => perform ev (s.withPending rest)

/-- A command word placed where the next move takes it: the host's next move writes it to CMD, with the block
out of reset and idle, since a busy block ignores a CMD write (R38, R43). -/
def placeWord (s : State) (w : Word) : State :=
  { s with
    phase := .idle,
    env := { s.env with resetIn := false, pending := .hostWrite (portIndex 0x0000) w :: s.env.pending } }

end Sys2Proof.Machine
end

