-- ==== Sys2Proof/Machine/Step.lean ====
section
/-! DEFINITION. One step of the machine: one atomic transition of R40. -/

namespace Sys2Proof.Machine

/-- One atomic transition: the next move of the interleaving (R40). -/
def step (s : State) : Host.Outcome State Fault Refusal := moveOnce s

/-- `s` with a command word where the next step fetches it: the CMD write is the fetch (R43). -/
def State.withFetchWord (s : State) (nbits w : Nat) : State := placeWord s (tableWord nbits w)

end Sys2Proof.Machine
end

