-- ==== Sys2Proof/Machine/Script.lean ====
section
/-! DEFINITION. The pseudo-instructions of the host script (R53) as moves of the agents, `WAIT` apart, which is the move
`Event.hostWait`. -/

namespace Sys2Proof.Machine

/-- `CMD MNEMONIC`, `CMD KEYGEN L` (R53): the command's word is written to CMD. -/
def scriptCmd (i : Instr) : List Event := [.hostWrite (portIndex 0x0000) (encode i)]

/-- `WRB X, v` (R53): all LW words of X, low word first. -/
def scriptWrb (lw : Nat) (x : BigReg) (v : Nat) : List Event :=
  (List.range lw).map fun j => .hostWrite (windowIndex x j) (wordOf v j)

/-- `RDB X` (R53): all LW words of X, low word first. -/
def scriptRdb (lw : Nat) (x : BigReg) : List Event := (List.range lw).map fun j => .hostRead (windowIndex x j)

/-- `WAIT` (R53). -/
def scriptWait : List Event := [.hostWait]

/-- `ACK` (R53): DONE is cleared. -/
def scriptAck : List Event := [.hostWrite (portIndex 0x0004) 0x00000002]

/-- `CLRDIAG` (R53): DIAG is cleared. -/
def scriptClrdiag : List Event := [.hostWrite (portIndex 0x0004) 0x00000008]

/-- `RESET` (R53, R96): the reset input is asserted and released. -/
def scriptReset : List Event := [.resetAssert, .resetRelease]

end Sys2Proof.Machine
end

