-- ==== Sys2Proof/Safety.lean ====
section
/-! DEFINITION. What the rules say holds between any two transitions: the build parameter (R6), the width of
every big-number register (R7), the key-file invariant (R18), the life cycle (R20, R48, R49) and what each phase
rests on (R26, R27, R69, R79). `BlockInvariant` is their conjunction. -/

namespace Sys2Proof.Safety

open Sys2Proof.Machine

/-- The build parameter (R6). -/
abbrev ConfigOk (s : State) : Prop := s.kmax % 32 = 0 ∧ 32 ≤ s.kmax ∧ s.kmax ≤ 8192

/-- Every big-number value is below `2^KMAX` (R7). -/
abbrev WidthsOk (s : State) : Prop :=
  s.a < 2 ^ s.kmax ∧ s.b < 2 ^ s.kmax ∧ s.m < 2 ^ s.kmax ∧ s.r < 2 ^ s.kmax ∧
  s.kn < 2 ^ s.kmax ∧ s.kp < 2 ^ s.kmax ∧ s.kq < 2 ^ s.kmax ∧ s.ke < 2 ^ s.kmax ∧ s.kd < 2 ^ s.kmax ∧
  s.c < 2 ^ s.kmax ∧ s.cp < 2 ^ s.kmax ∧ s.cq < 2 ^ s.kmax

/-- R18 (a): the key file is unset. -/
abbrev KeyUnset (s : State) : Prop :=
  s.kn = 0 ∧ s.kp = 0 ∧ s.kq = 0 ∧ s.ke = 0 ∧ s.kd = 0 ∧ s.kbits = 0

/-- R18 (b): the key file holds a key. -/
abbrev KeySet (s : State) : Prop :=
  s.kn = s.kp * s.kq ∧ bitlen s.kn = s.kbits.toNat ∧
  bitlen s.kp = s.kbits.toNat / 2 ∧ bitlen s.kq = s.kbits.toNat / 2 ∧
  s.kbits.toNat % 2 = 0 ∧ s.kbits ≠ 0 ∧ s.ke = 65537 ∧
  Nat.gcd s.ke (totient s.kp s.kq) = 1 ∧
  s.kd < totient s.kp s.kq ∧ s.ke * s.kd % totient s.kp s.kq = 1

/-- The key-file invariant (R18). -/
abbrev KeyOk (s : State) : Prop := KeyUnset s ∨ KeySet s

/-- The life cycle: from acceptance to completion DONE and ERR are 0 (R20, R48, R49). -/
abbrev BusyOk (s : State) : Prop := s.phase ≠ .idle → s.done = false ∧ s.err = .none

/-- An EXEC phase belongs to a one-step command, whose arguments are still those the check passed
(R26, R38, R43, R48). -/
abbrev ExecOk (s : State) : Prop :=
  s.phase = .exec →
    (s.opc = 1 ∧ montmulRefused s = false) ∨ (s.opc = 2 ∧ modexpRefused s = false) ∨ s.opc = 3 ∨
    (s.opc = 4 ∧ jacobiRefused s = false) ∨ (s.opc = 5 ∧ modinvRefused s = false) ∨
    (s.opc = 8 ∧ ldkeyPubRefused s = false) ∨ (s.opc = 9 ∧ ldkeyPrivRefused s = false)

/-- PRIMETEST in progress: C holds A, trials remain (R67, R69). -/
abbrev PrimetestOk (s : State) : Prop :=
  (s.phase = .ptCheck ∨ s.phase = .ptTrial → s.opc = 6 ∧ s.c = s.a ∧ s.t ≠ 0) ∧
  (s.phase = .ptTrial → 3 ≤ s.c ∧ s.c % 2 = 1)

/-- The phases of KEYGEN (R26). -/
abbrev KeygenPhase (p : Phase) : Prop :=
  p = .kgShape ∨ p = .kgP ∨ p = .kgQ ∨ p = .kgCheck ∨ p = .kgDerive

/-- A candidate that `PTest` may have accepted: `h` bits, and 2 or odd and at least 3 (R66, R79 (b)). -/
abbrev Acceptable (h : BitVec 16) (c : Nat) : Prop := bitlen c = h.toNat ∧ (c = 2 ∨ 3 ≤ c ∧ c % 2 = 1)

/-- KEYGEN in progress: L is even, nonzero and at most KMAX, H its half, ROUNDS is not 0, the key file is unset,
and the accepted candidates are what the next phases rely on (R71 to R77, R79 (b)). -/
abbrev KeygenOk (s : State) : Prop :=
  (KeygenPhase s.phase →
    s.opc = 7 ∧ s.l.toNat = 2 * s.h.toNat ∧ s.h ≠ 0 ∧ s.l.toNat ≤ s.kmax ∧ s.rounds ≠ 0 ∧ KeyUnset s) ∧
  (s.phase = .kgQ ∨ s.phase = .kgCheck ∨ s.phase = .kgDerive → Acceptable s.h s.cp) ∧
  (s.phase = .kgCheck ∨ s.phase = .kgDerive → Acceptable s.h s.cq) ∧
  (s.phase = .kgDerive → bitlen (s.cp * s.cq) = s.l.toNat)

/-- The invariant of the block. -/
abbrev BlockInvariant (s : State) : Prop :=
  ConfigOk s ∧ WidthsOk s ∧ KeyOk s ∧ BusyOk s ∧ ExecOk s ∧ PrimetestOk s ∧ KeygenOk s

end Sys2Proof.Safety
end

