-- ==== Sys2Proof/Certificates/Slice0/Obligations.lean ====
section
/-! DEFINITION. The statements for the provers, from the numbered rules of spec/. Each `def Obligations.<Name>`
is listed in OBLIGATIONS.json. `exec i s` is the next atomic transition of command `i` (R26, R48); `step s` is the
next transition of the interleaving (R40). -/

open Sys2Proof Sys2Proof.Machine Sys2Proof.Safety

/-! ### Command words -/

/-- R45 to R47: the encoder and the decoder agree on every command, with every immediate. -/
def Obligations.DecodeOfEncodeIsTheCommand : Prop :=
  ∀ i : Instr, i.wellFormed = true → decode (encode i) = .command i

/-- R47, R51: a command word has one meaning, and the command it decodes to encodes as that word. -/
def Obligations.DecodedCommandEncodesAsItsWord : Prop :=
  ∀ (w : Word) (i : Instr), decode w = .command i → i.wellFormed = true ∧ encode i = w

/-- R47: a word w encodes the command exactly when `(w AND mask) = match`. -/
def Obligations.WordEncodesCommandWhenItMatchesItsRow : Prop :=
  ∀ w : Word,
    (decode w = .command .montmul ↔ w &&& 0xFFFFFFFF#32 = 0x00000001#32) ∧
    (decode w = .command .modexp ↔ w &&& 0xFFFFFFFF#32 = 0x00000002#32) ∧
    (decode w = .command .gcd ↔ w &&& 0xFFFFFFFF#32 = 0x00000003#32) ∧
    (decode w = .command .jacobi ↔ w &&& 0xFFFFFFFF#32 = 0x00000004#32) ∧
    (decode w = .command .modinv ↔ w &&& 0xFFFFFFFF#32 = 0x00000005#32) ∧
    (decode w = .command .primetest ↔ w &&& 0xFFFFFFFF#32 = 0x00000006#32) ∧
    ((∃ L, decode w = .command (.keygen L)) ↔ w &&& 0x0000FFFF#32 = 0x00000007#32) ∧
    (∀ L, decode w = .command (.keygen L) → L = w.toNat / 2 ^ 16) ∧
    (decode w = .command .ldkeyPub ↔ w &&& 0xFFFFFFFF#32 = 0x00000008#32) ∧
    (decode w = .command .ldkeyPriv ↔ w &&& 0xFFFFFFFF#32 = 0x00000009#32)

/-- R50: which words are illegal, and that taking one records DONE, ERR = 3 and OPC and changes nothing else. -/
def Obligations.IllegalWordRaisesIllegalCommandOnly : Prop :=
  ∀ w : Word,
    ((∃ why, decode w = .illegal why) ↔
      (w.toNat % 16 = 0 ∨ 10 ≤ w.toNat % 16) ∨ w.toNat / 16 % 4096 ≠ 0 ∨
        (w.toNat % 16 ≠ 7 ∧ w.toNat / 65536 ≠ 0)) ∧
    ∀ (s : State) (rest : List Event),
      s.env.pending = .hostWrite (portIndex 0x0000) w :: rest → s.env.resetIn = false → s.phase = .idle →
      (∃ why, decode w = .illegal why) →
      step s = .next { s with
        done := true, err := .illegalCommand, opc := BitVec.ofNat 4 (w.toNat % 16),
        env := { s.env with pending := rest } }

/-- R47: words written out from the encoding table decode to the commands they stand for. -/
def Obligations.SpecCommandWordsDecode : Prop :=
  decode 0b00000000000000000000000000000001#32 = .command .montmul ∧
  decode 0b00000000000000000000000000000010#32 = .command .modexp ∧
  decode 0b00000000000000000000000000000011#32 = .command .gcd ∧
  decode 0b00000000000000000000000000000100#32 = .command .jacobi ∧
  decode 0b00000000000000000000000000000101#32 = .command .modinv ∧
  decode 0b00000000000000000000000000000110#32 = .command .primetest ∧
  decode 0b00000000001000000000000000000111#32 = .command (.keygen 32) ∧
  decode 0b00000000000000000000000000001000#32 = .command .ldkeyPub ∧
  decode 0b00000000000000000000000000001001#32 = .command .ldkeyPriv

/-! ### Steps and the command life cycle -/

/-- R25, R43, R48: a CMD write taken while idle runs the command its word decodes to, and the sequencer's move
runs the command in progress; around `exec` the step only takes the move off the list of coming moves (the list is the model's: log entry 3). -/
def Obligations.StepRunsTheCommandWrittenOrInProgress : Prop :=
  ∀ (s : State) (i : Instr), s.env.resetIn = false →
    (∀ (w : Word) (rest : List Event), s.phase = .idle → decode w = .command i →
      s.env.pending = .hostWrite (portIndex 0x0000) w :: rest →
      step s = exec i { s with env := { s.env with pending := rest } }) ∧
    (s.current = some i → s.env.pending = [] → step s = exec i s) ∧
    (∀ rest : List Event, s.current = some i → s.env.pending = .sequencer :: rest →
      step s = exec i { s with env := { s.env with pending := rest } })

/-- R48: taking a command. Busy: ignored. Idle: an illegal word, else a failed argument check, else
the acceptance actions and the phase of the command. -/
def Obligations.CommandWriteIsDecodedCheckedAndAccepted : Prop :=
  ∀ (s : State) (w : Word) (rest : List Event),
    s.env.pending = .hostWrite (portIndex 0x0000) w :: rest → s.env.resetIn = false →
    let op := w.toNat % 16
    let imm := w.toNat / 65536
    let illegal := op = 0 ∨ 10 ≤ op ∨ w.toNat / 16 % 4096 ≠ 0 ∨ (op ≠ 7 ∧ imm ≠ 0)
    let refused :=
      (op = 1 ∧ (s.m = 0 ∨ s.m % 2 = 0 ∨ s.m ≤ s.a ∨ s.m ≤ s.b)) ∨ (op = 2 ∧ s.m = 0) ∨
      (op = 4 ∧ (s.m = 0 ∨ s.m % 2 = 0)) ∨ (op = 5 ∧ s.m = 0) ∨ (op = 6 ∧ s.rounds = 0) ∨
      (op = 7 ∧ (imm = 0 ∨ imm % 2 = 1 ∨ s.kmax < imm ∨ s.rounds = 0)) ∨
      (op = 8 ∧ (s.kn = 0 ∨ s.kd = 0)) ∨ (op = 9 ∧ (s.kn = 0 ∨ s.ke = 0))
    let taken : State :=
      { s with done := false, err := .none, opc := BitVec.ofNat 4 op, env := { s.env with pending := rest } }
    (s.phase ≠ .idle → step s = .next { s with env := { s.env with pending := rest } }) ∧
    (s.phase = .idle → illegal → step s = .next { taken with err := .illegalCommand, done := true }) ∧
    (s.phase = .idle → ¬illegal → refused →
      step s = .next { taken with err := .invalidArgument, done := true }) ∧
    (s.phase = .idle → ¬illegal → ¬refused → op = 6 →
      step s = .next { taken with c := s.a, t := s.rounds, phase := .ptCheck }) ∧
    (s.phase = .idle → ¬illegal → ¬refused → op = 7 →
      step s = .next { taken with
        l := BitVec.ofNat 16 imm, h := BitVec.ofNat 16 (imm / 2),
        kn := 0, kp := 0, kq := 0, ke := 0, kd := 0, kbits := 0, phase := .kgShape }) ∧
    (s.phase = .idle → ¬illegal → ¬refused → op ≠ 6 → op ≠ 7 → step s = .next { taken with phase := .exec })

/-- R44: written while idle to a block that refuses nothing, each of the seven one-step commands is complete
after two steps: the CMD write and the EXEC step. -/
def Obligations.OneStepCommandsCompleteInTwoSteps : Prop :=
  ∀ (s : State) (i : Instr), s.phase = .idle → s.env.pending = [] → s.env.resetIn = false →
    (i = .montmul ∧ s.m % 2 = 1 ∧ s.a < s.m ∧ s.b < s.m) ∨ (i = .modexp ∧ s.m ≠ 0) ∨ i = .gcd ∨
      (i = .jacobi ∧ s.m % 2 = 1) ∨ (i = .modinv ∧ s.m ≠ 0) ∨
      (i = .ldkeyPub ∧ s.kn ≠ 0 ∧ s.kd ≠ 0) ∨ (i = .ldkeyPriv ∧ s.kn ≠ 0 ∧ s.ke ≠ 0) →
    ∃ t : State, core.run 2 (s.withFetchWord 32 (encode i).toNat) = .next t ∧
      t.phase = .idle ∧ t.done = true ∧ t.opc = i.opcode ∧ (t.err = .none ∨ i = .modinv)

/-- R26: the whole control-flow graph. A step leaves PHASE as it is, follows one of the arrows, or is a reset. -/
def Obligations.PhaseFollowsTheGraph : Prop :=
  ∀ s t : State, step s = .next t →
    t.phase = s.phase ∨ (t.phase = .idle ∧ s.env.pending.head? = some .resetAssert) ∨
    (s.phase, t.phase) ∈
      [(.idle, .exec), (.idle, .ptCheck), (.idle, .kgShape), (.exec, .idle), (.ptCheck, .idle),
       (.ptCheck, .ptTrial), (.ptTrial, .idle), (.kgShape, .kgP), (.kgP, .kgQ), (.kgQ, .kgCheck),
       (.kgCheck, .kgDerive), (.kgCheck, .kgShape), ((.kgDerive : Phase), (.idle : Phase))]

/-! ### The one-step commands: encoding, argument check, acceptance, result -/

/-- R55, MONTMUL: R is the value below M with `R * 2^KMAX ≡ A * B (mod M)`. -/
def Obligations.MontmulWritesTheMontgomeryProduct : Prop :=
  decode 0x00000001#32 = .command .montmul ∧
  ∀ s : State,
    (s.phase = .idle → (s.m = 0 ∨ s.m % 2 = 0 ∨ s.m ≤ s.a ∨ s.m ≤ s.b) →
      exec .montmul s = .next { s with done := true, err := .invalidArgument, opc := 0x1 }) ∧
    (s.phase = .idle → s.m % 2 = 1 → s.a < s.m → s.b < s.m →
      exec .montmul s = .next { s with done := false, err := .none, opc := 0x1, phase := .exec }) ∧
    (s.phase = .exec → s.opc = 0x1 → s.m % 2 = 1 → s.a < s.m → s.b < s.m →
      ∃ x, x < s.m ∧ x * 2 ^ s.kmax % s.m = s.a * s.b % s.m ∧
        exec .montmul s = .next { s with r := x, done := true, err := .none, phase := .idle })

/-- R57, MODEXP: `R <- (A^B) mod M`, with `0^0 = 1`. -/
def Obligations.ModexpWritesThePowerModulo : Prop :=
  decode 0x00000002#32 = .command .modexp ∧
  ∀ s : State,
    (s.phase = .idle → s.m = 0 →
      exec .modexp s = .next { s with done := true, err := .invalidArgument, opc := 0x2 }) ∧
    (s.phase = .idle → s.m ≠ 0 →
      exec .modexp s = .next { s with done := false, err := .none, opc := 0x2, phase := .exec }) ∧
    (s.phase = .exec → s.opc = 0x2 → s.m ≠ 0 →
      exec .modexp s = .next { s with r := s.a ^ s.b % s.m, done := true, err := .none, phase := .idle })

/-- R60, GCD: accepted with every operand; `R <- gcd(A, B)`, the largest natural dividing both (R9). -/
def Obligations.GcdWritesTheGreatestCommonDivisor : Prop :=
  decode 0x00000003#32 = .command .gcd ∧
  ∀ s : State,
    (s.phase = .idle →
      exec .gcd s = .next { s with done := false, err := .none, opc := 0x3, phase := .exec }) ∧
    (s.phase = .exec → s.opc = 0x3 →
      ∃ g, g ∣ s.a ∧ g ∣ s.b ∧ (∀ d, d ∣ s.a → d ∣ s.b → d ∣ g) ∧
        exec .gcd s = .next { s with r := g, done := true, err := .none, phase := .idle })

/-- R61, JACOBI: JAC holds the Jacobi symbol, here Mathlib's, which is defined through Legendre symbols as in R62. -/
def Obligations.JacobiWritesTheJacobiSymbol : Prop :=
  decode 0x00000004#32 = .command .jacobi ∧
  ∀ s : State,
    (s.phase = .idle → (s.m = 0 ∨ s.m % 2 = 0) →
      exec .jacobi s = .next { s with done := true, err := .invalidArgument, opc := 0x4 }) ∧
    (s.phase = .idle → s.m % 2 = 1 →
      exec .jacobi s = .next { s with done := false, err := .none, opc := 0x4, phase := .exec }) ∧
    (s.phase = .exec → s.opc = 0x4 → s.m % 2 = 1 →
      ∃ j : Sym, (jacobiSym s.a s.m = 0 → j.bits = 0b00) ∧ (jacobiSym s.a s.m = 1 → j.bits = 0b01) ∧
        (jacobiSym s.a s.m = -1 → j.bits = 0b11) ∧
        exec .jacobi s = .next { s with jac := j, done := true, err := .none, phase := .idle })

/-- R63, MODINV: the inverse below M, or ArithmeticInconsistency with R unchanged. -/
def Obligations.ModinvWritesTheInverseOrFails : Prop :=
  decode 0x00000005#32 = .command .modinv ∧
  ∀ s : State,
    (s.phase = .idle → s.m = 0 →
      exec .modinv s = .next { s with done := true, err := .invalidArgument, opc := 0x5 }) ∧
    (s.phase = .idle → s.m ≠ 0 →
      exec .modinv s = .next { s with done := false, err := .none, opc := 0x5, phase := .exec }) ∧
    (s.phase = .exec → s.opc = 0x5 → s.m ≠ 0 → Nat.gcd s.a s.m = 1 →
      ∃ x, x < s.m ∧ s.a * x % s.m = 1 % s.m ∧
        exec .modinv s = .next { s with r := x, done := true, err := .none, phase := .idle }) ∧
    (s.phase = .exec → s.opc = 0x5 → s.m ≠ 0 → Nat.gcd s.a s.m ≠ 1 →
      exec .modinv s = .next { s with done := true, err := .arithmeticInconsistency, phase := .idle })

/-- R80, LDKEY.PUB: M, B and PBITS take KN, KD and KBITS. -/
def Obligations.LdkeyPubLoadsTheDerivedExponent : Prop :=
  decode 0x00000008#32 = .command .ldkeyPub ∧
  ∀ s : State,
    (s.phase = .idle → (s.kn = 0 ∨ s.kd = 0) →
      exec .ldkeyPub s = .next { s with done := true, err := .invalidArgument, opc := 0x8 }) ∧
    (s.phase = .idle → s.kn ≠ 0 → s.kd ≠ 0 →
      exec .ldkeyPub s = .next { s with done := false, err := .none, opc := 0x8, phase := .exec }) ∧
    (s.phase = .exec → s.opc = 0x8 →
      exec .ldkeyPub s = .next { s with
        m := s.kn, b := s.kd, pbits := s.kbits, done := true, err := .none, phase := .idle })

/-- R81, LDKEY.PRIV: M, B and PBITS take KN, KE and KBITS. -/
def Obligations.LdkeyPrivLoadsTheFixedExponent : Prop :=
  decode 0x00000009#32 = .command .ldkeyPriv ∧
  ∀ s : State,
    (s.phase = .idle → (s.kn = 0 ∨ s.ke = 0) →
      exec .ldkeyPriv s = .next { s with done := true, err := .invalidArgument, opc := 0x9 }) ∧
    (s.phase = .idle → s.kn ≠ 0 → s.ke ≠ 0 →
      exec .ldkeyPriv s = .next { s with done := false, err := .none, opc := 0x9, phase := .exec }) ∧
    (s.phase = .exec → s.opc = 0x9 →
      exec .ldkeyPriv s = .next { s with
        m := s.kn, b := s.ke, pbits := s.kbits, done := true, err := .none, phase := .idle })

/-! ### The primality test -/

/-- R65: one trial, in terms of Mathlib's Jacobi symbol: a nonzero symbol whose residue the power is. -/
def Obligations.TrialMatchesTheNonzeroResidue : Prop :=
  ∀ c a : Nat, 3 ≤ c → c % 2 = 1 → 2 ≤ a → a ≤ c - 1 →
    (trial c a = true ↔
      (jacobiSym a c = 1 ∧ a ^ ((c - 1) / 2) % c = 1) ∨
      (jacobiSym a c = -1 ∧ a ^ ((c - 1) / 2) % c = c - 1))

/-- R66: no draw for c < 2, c = 2 or even c; else at most r draws, true at the first match, false when all r
answers fail. -/
def Obligations.PrimalityTestAcceptsOnFirstMatch : Prop :=
  ∀ (c r : Nat) (e : Env), 1 ≤ r →
    (c < 2 → pTest c r e = .ok (false, e)) ∧
    (c = 2 → pTest c r e = .ok (true, e)) ∧
    (2 < c → c % 2 = 0 → pTest c r e = .ok (false, e)) ∧
    (∀ k, 3 ≤ c → c % 2 = 1 → (e.answers.take r).findIdx? (trial c) = some k →
      (∀ v ∈ e.answers.take (k + 1), 2 ≤ v ∧ v ≤ c - 1) →
      pTest c r e = .ok (true, { e with answers := e.answers.drop (k + 1) })) ∧
    (3 ≤ c → c % 2 = 1 → r ≤ e.answers.length → (e.answers.take r).findIdx? (trial c) = none →
      (∀ v ∈ e.answers.take r, 2 ≤ v ∧ v ≤ c - 1) →
      pTest c r e = .ok (false, { e with answers := e.answers.drop r }))

/-- R67: PRIMETEST is refused exactly when ROUNDS = 0, whatever A holds, and else copies A and ROUNDS. -/
def Obligations.PrimetestCopiesItsOperands : Prop :=
  decode 0x00000006#32 = .command .primetest ∧
  ∀ s : State, s.phase = .idle →
    (s.rounds = 0 →
      exec .primetest s = .next { s with done := true, err := .invalidArgument, opc := 0x6 }) ∧
    (s.rounds ≠ 0 →
      exec .primetest s = .next { s with
        c := s.a, t := s.rounds, done := false, err := .none, opc := 0x6, phase := .ptCheck })

/-- R68: the PT_CHECK step. -/
def Obligations.PrimetestDecidesSmallAndEvenCandidates : Prop :=
  ∀ s : State, s.phase = .ptCheck →
    (s.c < 2 → exec .primetest s = .next { s with prime := false, done := true, err := .none, phase := .idle }) ∧
    (s.c = 2 → exec .primetest s = .next { s with prime := true, done := true, err := .none, phase := .idle }) ∧
    (2 < s.c → s.c % 2 = 0 →
      exec .primetest s = .next { s with prime := false, done := true, err := .none, phase := .idle }) ∧
    (2 < s.c → s.c % 2 = 1 → exec .primetest s = .next { s with phase := .ptTrial })

/-- R69: the PT_TRIAL step, for an answer waiting at the port and for a free answer (how answers come is the model's:
log entry 2). -/
def Obligations.PrimetestTrialStepFollowsItsDraw : Prop :=
  ∀ s : State, s.phase = .ptTrial → 3 ≤ s.c → s.c % 2 = 1 → s.t ≠ 0 →
    let after (v : Nat) (e : Env) : State :=
      if trial s.c v then { s with env := e, prime := true, done := true, err := .none, phase := .idle }
      else if s.t = 1 then
        { s with env := e, t := 0, prime := false, done := true, err := .none, phase := .idle }
      else { s with env := e, t := s.t - 1 }
    (∀ v rest, s.env.answers = v :: rest → 2 ≤ v → v ≤ s.c - 1 →
      exec .primetest s = .next (after v { s.env with answers := rest })) ∧
    (s.env.answers = [] → s.env.rngSilent = false →
      ∃ v, 2 ≤ v ∧ v ≤ s.c - 1 ∧
        exec .primetest s = .next (after v { s.env with drawn := s.env.drawn + 1 }))

/-- R70 (a): an odd prime matches with every witness, so PRIMETEST ends with PRIME = 1 after one draw. -/
def Obligations.PrimeCandidateIsAcceptedAtTheFirstTrial : Prop :=
  ∀ c : Nat, c.Prime → c ≠ 2 →
    (∀ a, 2 ≤ a → a ≤ c - 1 → trial c a = true) ∧
    ∀ s : State, s.phase = .ptTrial → s.c = c →
      (s.env.answers = [] ∧ s.env.rngSilent = false ∨
        ∃ v rest, s.env.answers = v :: rest ∧ 2 ≤ v ∧ v ≤ c - 1) →
      ∃ e : Env, exec .primetest s =
        .next { s with env := e, prime := true, done := true, err := .none, phase := .idle }

/-- R44, R70 (c): an accepted PRIMETEST completes within `1 + ROUNDS` steps of the sequencer, given an RNG
environment that answers (log entry 2). -/
def Obligations.PrimetestCompletesWithinItsRounds : Prop :=
  ∀ s : State, s.phase = .ptCheck → s.t ≠ 0 → s.env.pending = [] → s.env.resetIn = false →
    s.env.answers = [] → s.env.rngSilent = false →
    ∃ (n : Nat) (t : State), n ≤ 1 + s.t.toNat ∧ core.run n s = .next t ∧
      t.phase = .idle ∧ t.done = true ∧ t.err = .none

/-! ### Key generation -/

/-- R71: KEYGEN's argument check and acceptance actions, for every immediate. -/
def Obligations.KeygenChecksItsLengthAndZeroesTheKeyFile : Prop :=
  ∀ (s : State) (L : Nat), L < 2 ^ 16 → s.phase = .idle →
    ((L = 0 ∨ L % 2 = 1 ∨ s.kmax < L ∨ s.rounds = 0) →
      exec (.keygen L) s = .next { s with done := true, err := .invalidArgument, opc := 0x7 }) ∧
    (L ≠ 0 → L % 2 = 0 → L ≤ s.kmax → s.rounds ≠ 0 →
      ∃ t : State, exec (.keygen L) s = .next t ∧
        t = { s with
          l := t.l, h := t.h, kn := 0, kp := 0, kq := 0, ke := 0, kd := 0, kbits := 0,
          done := false, err := .none, opc := 0x7, phase := .kgShape } ∧
        t.l.toNat = L ∧ t.h.toNat = L / 2)

/-- R72: the KG_SHAPE step passes exactly when `x * y >= 2^(L-1)`; x and y leave no trace (how answers come is the
model's: log entry 2). -/
def Obligations.KeygenShapeCheckTakesTwoDraws : Prop :=
  ∀ s : State, s.phase = .kgShape → s.h ≠ 0 → s.l.toNat = 2 * s.h.toNat →
    (∀ x y rest, s.env.answers = x :: y :: rest →
      2 ^ (s.h.toNat - 1) ≤ x → x < 2 ^ s.h.toNat → 2 ^ (s.h.toNat - 1) ≤ y → y < 2 ^ s.h.toNat →
      exec (.keygen s.l.toNat) s = .next { s with
        env := { s.env with answers := rest },
        phase := if 2 ^ (s.l.toNat - 1) ≤ x * y then .kgP else .kgShape }) ∧
    (s.env.answers = [] → s.env.rngSilent = false →
      ∃ x y, 2 ^ (s.h.toNat - 1) ≤ x ∧ x < 2 ^ s.h.toNat ∧ 2 ^ (s.h.toNat - 1) ≤ y ∧ y < 2 ^ s.h.toNat ∧
        exec (.keygen s.l.toNat) s = .next { s with
          env := { s.env with drawn := s.env.drawn + 2 },
          phase := if 2 ^ (s.l.toNat - 1) ≤ x * y then .kgP else .kgShape })

/-- R73: the KG_P step: a candidate of H bits, then the draws of one `PTest`. -/
def Obligations.KeygenKeepsAnAcceptedP : Prop :=
  ∀ s : State, s.phase = .kgP →
    ∀ c rest, s.env.answers = c :: rest → 2 ^ (s.h.toNat - 1) ≤ c → c < 2 ^ s.h.toNat →
      ∀ ok e, pTest c s.rounds.toNat { s.env with answers := rest } = .ok (ok, e) →
        exec (.keygen s.l.toNat) s =
          .next (if ok = true then { s with env := e, cp := c, phase := .kgQ } else { s with env := e })

/-- R74: the KG_Q step, the same way, with nothing relating q to p. -/
def Obligations.KeygenKeepsAnAcceptedQ : Prop :=
  ∀ s : State, s.phase = .kgQ →
    ∀ c rest, s.env.answers = c :: rest → 2 ^ (s.h.toNat - 1) ≤ c → c < 2 ^ s.h.toNat →
      ∀ ok e, pTest c s.rounds.toNat { s.env with answers := rest } = .ok (ok, e) →
        exec (.keygen s.l.toNat) s =
          .next (if ok = true then { s with env := e, cq := c, phase := .kgCheck } else { s with env := e })

/-- R75: the KG_CHECK step: `p*q` of exactly L bits goes on, any other restarts from step 1. -/
def Obligations.KeygenRestartsOnAWrongLength : Prop :=
  ∀ s : State, s.phase = .kgCheck → s.l ≠ 0 →
    exec (.keygen s.l.toNat) s = .next { s with
      phase := if 2 ^ (s.l.toNat - 1) ≤ s.cp * s.cq ∧ s.cp * s.cq < 2 ^ s.l.toNat then .kgDerive
        else .kgShape }

/-- R76, R77: the KG_DERIVE step: the gcd failure leaves the key file alone; else the six key registers are written
together, and DIAG is set only by a failed self-check. -/
def Obligations.KeygenDerivesTheExponentsAndWritesTheKey : Prop :=
  ∀ s : State, s.phase = .kgDerive →
    let phi := (s.cp - 1) * (s.cq - 1)
    (Nat.gcd 65537 phi ≠ 1 →
      exec (.keygen s.l.toNat) s =
        .next { s with done := true, err := .arithmeticInconsistency, phase := .idle }) ∧
    (Nat.gcd 65537 phi = 1 →
      ∃ d, d < phi ∧ 65537 * d % phi = 1 % phi ∧
        exec (.keygen s.l.toNat) s = .next { s with
          kn := s.cp * s.cq, kp := s.cp, kq := s.cq, ke := 65537, kd := d, kbits := s.l.setWidth 32,
          diag := s.diag || decide (65537 * d % phi ≠ 1), done := true, err := .none, phase := .idle })

/-- R78 (a): KEYGEN 2 never leaves KG_SHAPE, whatever the environment answers, and runs for ever with one that
answers (log entry 2). -/
def Obligations.KeygenOfTwoBitsNeverCompletes : Prop :=
  ∀ s : State, s.phase = .kgShape → s.l = 2 → s.h = 1 →
    (∀ t, exec (.keygen 2) s = .next t → t.phase = .kgShape ∧ t.l = 2 ∧ t.h = 1) ∧
    (s.env.pending = [] → s.env.resetIn = false → s.env.answers = [] → s.env.rngSilent = false →
      ∀ n, ∃ t : State, core.run n s = .next t ∧ t.phase = .kgShape ∧ t.done = s.done)

/-- R78 (b): every completed KEYGEN 4 yields n = 9. -/
def Obligations.KeygenOfFourBitsYieldsNine : Prop :=
  ∀ s : State, BlockInvariant s → s.phase = .kgDerive → s.l = 4 →
    exec (.keygen 4) s = .next { s with
      kn := 9, kp := 3, kq := 3, ke := 65537, kd := 1, kbits := 4,
      done := true, err := .none, phase := .idle }

/-- R79 (c): ArithmeticInconsistency cannot occur for L below 36. -/
def Obligations.ShortKeysAlwaysDerive : Prop :=
  ∀ s : State, BlockInvariant s → s.phase = .kgDerive → s.l.toNat < 36 →
    ∃ t : State, exec (.keygen s.l.toNat) s = .next t ∧ t.err = .none ∧ t.done = true ∧ KeySet t

/-! ### Frames: what a command leaves unchanged in every transition of it -/

/-- R14, R15: MONTMUL, MODEXP, GCD and MODINV change R, in their completing step alone, and DONE, ERR, OPC, PHASE;
every other register, flag and port word stays. -/
def Obligations.ArithmeticCommandsFrame : Prop :=
  ∀ i ∈ [Instr.montmul, .modexp, .gcd, .modinv], ∀ s t : State, exec i s = .next t →
    t = { s with r := t.r, done := t.done, err := t.err, opc := t.opc, phase := t.phase } ∧
    (t.r ≠ s.r → s.phase = .exec ∧ t.phase = .idle ∧ t.done = true ∧ t.err = .none) ∧
    ∀ p : PortIndex, 4 * p.val ≠ 0x0004 → 4 * p.val ≠ 0x0008 → ¬(0x1C00 ≤ 4 * p.val ∧ 4 * p.val < 0x2000) →
      t.hostRead p = s.hostRead p

/-- R20, R61: JACOBI changes JAC, in its completing step alone, and DONE, ERR, OPC, PHASE; R and everything else
stay. -/
def Obligations.JacobiFrame : Prop :=
  ∀ s t : State, exec .jacobi s = .next t →
    t = { s with jac := t.jac, done := t.done, err := t.err, opc := t.opc, phase := t.phase } ∧
    (t.jac ≠ s.jac → s.phase = .exec ∧ t.phase = .idle ∧ t.done = true ∧ t.err = .none) ∧
    ∀ p : PortIndex, 4 * p.val ≠ 0x0004 → 4 * p.val ≠ 0x0008 → t.hostRead p = s.hostRead p

/-- R20, R67: PRIMETEST changes PRIME, in its completing step alone, its scratch C and T, the draws, and DONE, ERR,
OPC, PHASE; A, JAC, R and everything else stay. -/
def Obligations.PrimetestFrame : Prop :=
  ∀ s t : State, exec .primetest s = .next t →
    t = { s with
      prime := t.prime, c := t.c, t := t.t, done := t.done, err := t.err, opc := t.opc, phase := t.phase,
      env := { s.env with answers := t.env.answers, drawn := t.env.drawn } } ∧
    (t.prime ≠ s.prime → t.phase = .idle ∧ t.done = true ∧ t.err = .none) ∧
    ∀ p : PortIndex, 4 * p.val ≠ 0x0004 → 4 * p.val ≠ 0x0008 → t.hostRead p = s.hostRead p

/-- R71: KEYGEN changes the key file, DIAG, its scratch L, H, CP, CQ, the draws, and DONE, ERR, OPC, PHASE;
A, B, M, R, PRIME, JAC, PBITS and everything else stay. -/
def Obligations.KeygenFrame : Prop :=
  ∀ (L : Nat) (s t : State), exec (.keygen L) s = .next t →
    t = { s with
      kn := t.kn, kp := t.kp, kq := t.kq, ke := t.ke, kd := t.kd, kbits := t.kbits, diag := t.diag,
      l := t.l, h := t.h, cp := t.cp, cq := t.cq, done := t.done, err := t.err, opc := t.opc,
      phase := t.phase, env := { s.env with answers := t.env.answers, drawn := t.env.drawn } } ∧
    ∀ p : PortIndex, 4 * p.val ≠ 0x0004 → 4 * p.val ≠ 0x0008 → 4 * p.val ≠ 0x0014 →
      ¬(0x2000 ≤ 4 * p.val ∧ 4 * p.val < 0x3400) → t.hostRead p = s.hostRead p

/-- R80, R81: LDKEY.PUB and LDKEY.PRIV change M, B and PBITS, in the completing step alone, and DONE, ERR, OPC,
PHASE; A, R, the key file and everything else stay. -/
def Obligations.KeyLoadFrame : Prop :=
  ∀ i ∈ [Instr.ldkeyPub, .ldkeyPriv], ∀ s t : State, exec i s = .next t →
    t = { s with
      m := t.m, b := t.b, pbits := t.pbits, done := t.done, err := t.err, opc := t.opc, phase := t.phase } ∧
    (t.m ≠ s.m ∨ t.b ≠ s.b ∨ t.pbits ≠ s.pbits →
      s.phase = .exec ∧ t.phase = .idle ∧ t.done = true ∧ t.err = .none) ∧
    ∀ p : PortIndex, 4 * p.val ≠ 0x0004 → 4 * p.val ≠ 0x0008 → 4 * p.val ≠ 0x0018 →
      ¬(0x1400 ≤ 4 * p.val ∧ 4 * p.val < 0x1C00) → t.hostRead p = s.hostRead p

/-! ### The host port -/

/-- R37: a host read returns the current value of the addressed word, in every phase, and changes nothing (the list of
words received is the model's: log entry 3). -/
def Obligations.HostReadChangesNothing : Prop :=
  ∀ (s : State) (p : PortIndex) (rest : List Event),
    s.env.pending = .hostRead p :: rest → s.env.resetIn = false →
    step s = .next { s with
      env := { s.env with pending := rest, received := s.env.received ++ [s.hostRead p] } }

/-- R34: word j of a window is `X[32*j+31 : 32*j]`, words from LW on read 0 and ignore writes, X is the sum of its
words, and a write replaces exactly one word. -/
def Obligations.WindowWordsAreTheLimbsOfTheRegister : Prop :=
  ∀ (s : State) (n j : Nat) (x : BigReg), bigRegOf n = some x → j < 256 →
    let p := portIndex (0x1000 + 0x400 * n + 4 * j)
    (s.hostRead p).toNat = (if j < s.lw then s.big x / 2 ^ (32 * j) % 2 ^ 32 else 0) ∧
    (ConfigOk s → s.big x < 2 ^ s.kmax →
      s.big x = ∑ k ∈ Finset.range s.lw,
        (s.hostRead (portIndex (0x1000 + 0x400 * n + 4 * k))).toNat * 2 ^ (32 * k)) ∧
    ∀ w : Word,
      (s.lw ≤ j → hostWrite s p w = .next s) ∧
      (s.phase = .idle → j < s.lw → x = .A ∨ x = .B ∨ x = .M →
        ∃ v, hostWrite s p w = .next (s.setBig x v) ∧ (s.setBig x v).big x = v ∧
          ∀ k, v.testBit k =
            if 32 * j ≤ k ∧ k < 32 * j + 32 then w.getLsbD (k - 32 * j) else (s.big x).testBit k)

/-- R36: reserved offsets, non-existent window words and CMD read 0; writes to reserved offsets, non-existent window
words, read-only registers and windows change nothing; reserved bits of CTRL and STATUS do not matter. -/
def Obligations.ReservedAndReadOnlyWritesAreIgnored : Prop :=
  ∀ (s : State) (p : PortIndex) (w : Word),
    (4 * p.val = 0 ∨ (0x0020 ≤ 4 * p.val ∧ 4 * p.val < 0x1000) ∨ 0x3400 ≤ 4 * p.val ∨
      (0x1000 ≤ 4 * p.val ∧ s.lw ≤ (p.val - 0x400) % 0x100) → s.hostRead p = 0) ∧
    (4 * p.val = 0x0008 ∨ 4 * p.val = 0x0014 ∨ 4 * p.val = 0x0018 ∨ 4 * p.val = 0x001C ∨
      (0x0020 ≤ 4 * p.val ∧ 4 * p.val < 0x1000) ∨ 0x1C00 ≤ 4 * p.val ∨
      (0x1000 ≤ 4 * p.val ∧ s.lw ≤ (p.val - 0x400) % 0x100) → hostWrite s p w = .next s) ∧
    (∀ w' : Word, 4 * p.val = 0x0010 → w.getLsbD 0 = w'.getLsbD 0 → hostWrite s p w = hostWrite s p w') ∧
    (∀ w' : Word, 4 * p.val = 0x0004 → w.getLsbD 1 = w'.getLsbD 1 → w.getLsbD 3 = w'.getLsbD 3 →
      hostWrite s p w = hostWrite s p w')

/-- R38: what `HostWrite` does, by target and by phase; a CMD write while idle is `CommandWriteIsDecodedChecked
AndAccepted`. -/
def Obligations.HostWriteFollowsItsTarget : Prop :=
  ∀ (s : State) (w : Word),
    (s.phase ≠ .idle → hostWrite s (portIndex 0x0000) w = .next s) ∧
    hostWrite s (portIndex 0x0004) w =
      .next { s with
        done := if w.getLsbD 1 then false else s.done, diag := if w.getLsbD 3 then false else s.diag } ∧
    hostWrite s (portIndex 0x0010) w = .next { s with ie := w.getLsbD 0 } ∧
    (s.phase = .idle → hostWrite s (portIndex 0x000C) w = .next { s with rounds := w }) ∧
    (s.phase ≠ .idle → hostWrite s (portIndex 0x000C) w = .next s) ∧
    (∀ p : PortIndex, 0x1000 ≤ 4 * p.val → 4 * p.val < 0x1C00 → s.phase ≠ .idle → hostWrite s p w = .next s)

/-- R20, R21, R23, R25, R33, R37: what the host reads at the control and status offsets (CMD apart), in every state:
STATUS, ERR and CTRL field by field, and the whole words of ROUNDS, KBITS, PBITS and CONFIG. -/
def Obligations.StatusErrAndCtrlWordsHoldTheirFields : Prop :=
  ∀ s : State,
    (s.hostRead (portIndex 0x0004)).toNat =
      (if s.phase = .idle then 0 else 1) + (if s.done then 2 else 0) + (if s.err = .none then 0 else 4) +
      (if s.diag then 8 else 0) + (if s.prime then 16 else 0) +
      32 * (match s.jac with | .zero => 0 | .plusOne => 1 | .minusOne => 3) +
      256 * (match s.phase with
        | .idle => 0 | .exec => 1 | .ptCheck => 2 | .ptTrial => 3 | .kgShape => 4 | .kgP => 5 | .kgQ => 6
        | .kgCheck => 7 | .kgDerive => 8) +
      4096 * s.opc.toNat ∧
    (s.hostRead (portIndex 0x0008)).toNat =
      (match s.err with
        | .none => 0 | .invalidArgument => 1 | .arithmeticInconsistency => 2 | .illegalCommand => 3) ∧
    (s.hostRead (portIndex 0x0010)).toNat = (if s.ie then 1 else 0) ∧
    s.hostRead (portIndex 0x000C) = s.rounds ∧
    s.hostRead (portIndex 0x0014) = s.kbits ∧
    s.hostRead (portIndex 0x0018) = s.pbits ∧
    s.hostRead (portIndex 0x001C) = s.config

/-- R30, R90: `irq` is IE AND DONE: raised by a completion or by setting IE, dropped by ACK, by clearing IE and by a
CMD write that is accepted. -/
def Obligations.IrqIsEnabledCompletion : Prop :=
  ∀ s : State,
    (s.irq = true ↔ s.ie = true ∧ s.done = true) ∧
    (∀ code, (s.complete code).irq = s.ie) ∧
    (∀ w t, hostWrite s (portIndex 0x0010) w = .next t → t.irq = (w.getLsbD 0 && s.done)) ∧
    (∀ t, hostWrite s (portIndex 0x0004) 0x00000002 = .next t → t.irq = false) ∧
    (∀ i t, s.phase = .idle → exec i s = .next t → t.phase ≠ .idle → t.irq = false)

/-- R41: from DONE = 1 on, no move but a host write or a reset changes any word the host can read. -/
def Obligations.ReadsAfterDoneAreSettled : Prop :=
  ∀ (s t : State) (p : PortIndex), BlockInvariant s → s.done = true → step s = .next t →
    s.env.pending.head? ≠ some .resetAssert →
    (∀ q w, s.env.pending.head? ≠ some (.hostWrite q w)) → t.hostRead p = s.hostRead p

/-- R53: `WAIT` reads STATUS; with DONE set it is over, else the host polls again after a move of the sequencer (one
move between two polls is the model's choice: log entry 9). -/
def Obligations.WaitPollsStatusUntilDone : Prop :=
  ∀ (s : State) (rest : List Event), s.env.pending = .hostWait :: rest → s.env.resetIn = false →
    let polled : State := { s with
      env := { s.env with pending := rest, received := s.env.received ++ [s.hostRead (portIndex 0x0004)] } }
    (s.done = true → step s = .next polled) ∧
    (s.done = false → step s = .next { polled with
      env := { polled.env with pending := .sequencer :: .hostWait :: rest } })

/-- R53: `WRB X, v` leaves exactly v in an operand register and `RDB X` reads the LW words of X, low word first. -/
def Obligations.WrbAndRdbMoveTheWholeRegister : Prop :=
  ∀ (s : State) (x : BigReg) (rest : List Event), ConfigOk s → s.env.resetIn = false →
    (∀ v : Nat, x = .A ∨ x = .B ∨ x = .M → s.phase = .idle → v < 2 ^ s.kmax → s.big x < 2 ^ s.kmax →
      s.env.pending = scriptWrb s.lw x v ++ rest →
      core.run s.lw s = .next { s.setBig x v with env := { s.env with pending := rest } }) ∧
    (s.env.pending = scriptRdb s.lw x ++ rest →
      core.run s.lw s = .next { s with
        env := { s.env with
          pending := rest, received := s.env.received ++ (List.range s.lw).map (wordOf (s.big x)) } })

/-! ### Reset -/

/-- R96: the reset transition from any state; while the input is asserted no step and no host write is taken and reads
return the reset values; releasing it changes nothing else. That the transition drops the answers still waiting at the RNG
port is the model's choice, read into R97 by inference (log entry 8, DEDUCED), and no part of R96. -/
def Obligations.ResetPutsEveryPieceOfStateBack : Prop :=
  ∀ (s : State) (rest : List Event),
    (s.env.pending = .resetAssert :: rest →
      step s = .next {
        a := 0, b := 0, m := 0, r := 0, kn := 0, kp := 0, kq := 0, ke := 0, kd := 0, kbits := 0, pbits := 0,
        done := false, diag := false, prime := false, jac := .zero, err := .none, rounds := 0, ie := false,
        config := s.config, phase := .idle, opc := 0, c := 0, t := 0, l := 0, h := 0, cp := 0, cq := 0,
        env := { s.env with pending := rest, answers := [], resetIn := true } }) ∧
    (s.env.resetIn = true →
      (s.env.pending = .sequencer :: rest → step s = .next { s with env := { s.env with pending := rest } }) ∧
      (s.env.pending = [] → step s = .next s) ∧
      (∀ p w, s.env.pending = .hostWrite p w :: rest →
        step s = .next { s with env := { s.env with pending := rest } }) ∧
      (∀ p, s.env.pending = .hostRead p :: rest →
        step s = .next { s with env := { s.env with
          pending := rest, received := s.env.received ++ [if 4 * p.val = 0x001C then s.config else 0] } })) ∧
    (s.env.pending = .resetRelease :: rest →
      step s = .next { s with env := { s.env with pending := rest, resetIn := false } })

/-- R31: after reset every port word reads 0 but CONFIG, which reads KMAX; every big-number register and the hidden
scratch are 0 and irq is 0. -/
def Obligations.ResetStateReadsZeroButConfig : Prop :=
  (∀ p : PortIndex,
    State.reset.hostRead p = if 4 * p.val = 0x001C then BitVec.ofNat 32 Config.kmax else 0) ∧
  State.reset.kmax = Config.kmax ∧ (∀ x : BigReg, State.reset.big x = 0) ∧
  State.reset.phase = .idle ∧ State.reset.irq = false ∧ State.reset.c = 0 ∧ State.reset.t = 0 ∧
  State.reset.l = 0 ∧ State.reset.h = 0 ∧ State.reset.cp = 0 ∧ State.reset.cq = 0

/-! ### The RNG port -/

/-- R92, R44, the FIRST draw of a step: the pending step of a drawing phase is refused for an answer outside the range
of its first request and is not taken when the environment gives none (the refusal is the model's form of a run without
meaning: log entry 5). The later draws of a step are in `LaterDrawsOutsideTheContract`. -/
def Obligations.DrawsOutsideTheContract : Prop :=
  ∀ (s : State) (i : Instr) (q : Request), s.current = some i → s.request = some q → q.low ≤ q.high →
    (∀ v rest, s.env.answers = v :: rest → (v < q.low ∨ q.high < v) →
      exec i s = .refused .rngAnswerOutOfRange) ∧
    (s.env.answers = [] → s.env.rngSilent = true → exec i s = .next s)

/-- R92, R44, the LATER draws of a step: the second draw of KG_SHAPE, and in KG_P and KG_Q the draw of a further witness after
the witnesses `ws` that the candidate c has failed with. An answer outside the range is refused; without an answer the
step is not taken at all, so the answers of its earlier draws are still waiting (both are the model's reading of R92 and
R44: log entry 5, DEDUCED). -/
def Obligations.LaterDrawsOutsideTheContract : Prop :=
  (∀ (s : State) (x : Nat), s.phase = .kgShape → 2 ^ (s.h.toNat - 1) ≤ x → x < 2 ^ s.h.toNat →
    (∀ y rest, s.env.answers = x :: y :: rest → (y < 2 ^ (s.h.toNat - 1) ∨ 2 ^ s.h.toNat ≤ y) →
      exec (.keygen s.l.toNat) s = .refused .rngAnswerOutOfRange) ∧
    (s.env.answers = [x] → s.env.rngSilent = true → exec (.keygen s.l.toNat) s = .next s)) ∧
  (∀ (s : State) (c : Nat) (ws : List Nat), s.phase = .kgP ∨ s.phase = .kgQ →
    2 ^ (s.h.toNat - 1) ≤ c → c < 2 ^ s.h.toNat → 3 ≤ c → c % 2 = 1 → ws.length < s.rounds.toNat →
    (∀ w ∈ ws, 2 ≤ w ∧ w ≤ c - 1 ∧ trial c w = false) →
    (∀ v rest, s.env.answers = c :: (ws ++ v :: rest) → (v < 2 ∨ c - 1 < v) →
      exec (.keygen s.l.toNat) s = .refused .rngAnswerOutOfRange) ∧
    (s.env.answers = c :: ws → s.env.rngSilent = true → exec (.keygen s.l.toNat) s = .next s))

/-- R92, R97: an answer reaches the port only while a draw request stands there; one that arrives at any other time, or
while the reset input is asserted, is discarded (the model's choice but for the time after a reset: log entry 8). A reset
drops the answers not yet taken. That every answer is the standing request's, even after a reset that dropped an earlier
request, is the model's choice too (log entry 17). -/
def Obligations.AnswersReachOnlyAPendingDraw : Prop :=
  ∀ (s : State) (v : Nat) (rest : List Event),
    (s.env.pending = .rngAnswer v :: rest → s.request.isSome = true → s.env.resetIn = false →
      step s = .next { s with env := { s.env with pending := rest, answers := s.env.answers ++ [v] } }) ∧
    (s.env.pending = .rngAnswer v :: rest → s.request = none ∨ s.env.resetIn = true →
      step s = .next { s with env := { s.env with pending := rest } }) ∧
    (∀ t : State, s.env.pending = .resetAssert :: rest → step s = .next t → t.env.answers = [] ∧ t.request = none)

/-! ### Invariants and whole-machine rules -/

/-- R7, R18, R20, R26, R79 (b): every step keeps the invariant, whichever agent moves. -/
def Obligations.EveryStepKeepsTheInvariant : Prop :=
  ∀ s t : State, BlockInvariant s → step s = .next t → BlockInvariant t

/-- R6, R31: the invariant holds after reset, for every KMAX. -/
def Obligations.InvariantHoldsAfterReset : Prop := BlockInvariant State.reset

/-- R26: no fault from a state that meets the invariant. -/
def Obligations.InvariantExcludesFaults : Prop :=
  ∀ (s : State) (f : Fault), BlockInvariant s → step s ≠ .fault f

/-- R77, R89: DIAG is never set. -/
def Obligations.DiagIsNeverSet : Prop :=
  ∀ s t : State, BlockInvariant s → step s = .next t → t.diag = true → s.diag = true

/-- R15: R is written by MONTMUL, MODEXP, GCD and MODINV alone, each in its completing step without error (and by
reset). -/
def Obligations.ResultRegisterHasFourWriters : Prop :=
  ∀ s t : State, step s = .next t → t.r ≠ s.r →
    s.env.pending.head? = some .resetAssert ∨
    (s.phase = .exec ∧ (s.opc = 0x1 ∨ s.opc = 0x2 ∨ s.opc = 0x3 ∨ s.opc = 0x5) ∧
      t.phase = .idle ∧ t.done = true ∧ t.err = .none)

/-- R20, R28: PRIME is written by PRIMETEST alone and JAC by JACOBI alone, on completion (and by reset). -/
def Obligations.PrimeAndJacHaveOneWriterEach : Prop :=
  ∀ s t : State, step s = .next t →
    (t.prime ≠ s.prime → s.env.pending.head? = some .resetAssert ∨
      ((s.phase = .ptCheck ∨ s.phase = .ptTrial) ∧ t.phase = .idle ∧ t.done = true ∧ t.err = .none)) ∧
    (t.jac ≠ s.jac → s.env.pending.head? = some .resetAssert ∨
      (s.phase = .exec ∧ s.opc = 0x4 ∧ t.phase = .idle ∧ t.done = true ∧ t.err = .none))

/-- R16: the key file is written by KEYGEN alone: all six set to 0 at acceptance, all six written in its last step when
it succeeds (and by reset). -/
def Obligations.KeyFileIsWrittenByKeygenAlone : Prop :=
  ∀ s t : State, step s = .next t →
    (t.kn ≠ s.kn ∨ t.kp ≠ s.kp ∨ t.kq ≠ s.kq ∨ t.ke ≠ s.ke ∨ t.kd ≠ s.kd ∨ t.kbits ≠ s.kbits) →
    s.env.pending.head? = some .resetAssert ∨
    (s.phase = .idle ∧ t.phase = .kgShape ∧ KeyUnset t) ∨
    (s.phase = .kgDerive ∧ t.phase = .idle ∧ t.done = true ∧ t.err = .none ∧
      t.kn = s.cp * s.cq ∧ t.kp = s.cp ∧ t.kq = s.cq ∧ t.ke = 65537 ∧ t.kbits.toNat = s.l.toNat)

/-- R17: PBITS is written by a successful LDKEY alone, with KBITS, while M takes KN and B takes KD or KE (and by
reset). -/
def Obligations.PbitsIsWrittenByKeyLoadsAlone : Prop :=
  ∀ s t : State, step s = .next t → t.pbits ≠ s.pbits →
    s.env.pending.head? = some .resetAssert ∨
    (s.phase = .exec ∧ t.pbits = s.kbits ∧ t.m = s.kn ∧
      ((s.opc = 0x8 ∧ t.b = s.kd) ∨ (s.opc = 0x9 ∧ t.b = s.ke)) ∧ t.done = true ∧ t.err = .none)
end

