-- ==== Sys2Proof/Laws/Arith.lean ====
section
/-! SUPPORT. What the arithmetic units compute, in the mathematical terms of R9, R55, R57 and R62: callers cite
these lemmas and unfold no loop. -/

namespace Sys2Proof.Machine

@[simp] theorem bitlen_zero : bitlen 0 = 0 := rfl

theorem bitlen_of_ne_zero {v : Nat} (h : v ≠ 0) : bitlen v = Nat.log2 v + 1 := by simp [bitlen, h]

/-- R9: `v < 2^bitlen(v)`. -/
theorem lt_two_pow_bitlen (v : Nat) : v < 2 ^ bitlen v := by
  by_cases h : v = 0
  · simp [h]
  · rw [bitlen_of_ne_zero h]; exact Nat.lt_log2_self

/-- R9: `2^(bitlen(v)-1) <= v` for a nonzero v. -/
theorem two_pow_bitlen_le {v : Nat} (h : v ≠ 0) : 2 ^ (bitlen v - 1) ≤ v := by
  rw [bitlen_of_ne_zero h]; exact Nat.log2_self_le h

/-- R9: the k with `2^(k-1) <= v < 2^k` is the bit length. -/
theorem bitlen_eq_of_bounds {v k : Nat} (hl : 2 ^ (k - 1) ≤ v) (hu : v < 2 ^ k) : bitlen v = k := by
  have hv : v ≠ 0 := by have := Nat.two_pow_pos (k - 1); omega
  have h1 : k - 1 < bitlen v :=
    (Nat.pow_lt_pow_iff_right (by norm_num : 1 < 2)).1 (hl.trans_lt (lt_two_pow_bitlen v))
  have h2 : bitlen v - 1 < k :=
    (Nat.pow_lt_pow_iff_right (by norm_num : 1 < 2)).1 ((two_pow_bitlen_le hv).trans_lt hu)
  omega

/-- R9: the bit length of a nonzero number, as its bounds. -/
theorem bitlen_eq_iff {v k : Nat} (hk : k ≠ 0) : bitlen v = k ↔ 2 ^ (k - 1) ≤ v ∧ v < 2 ^ k := by
  refine ⟨?_, fun h => bitlen_eq_of_bounds h.1 h.2⟩
  rintro rfl
  exact ⟨two_pow_bitlen_le (by rintro rfl; exact hk rfl), lt_two_pow_bitlen v⟩

theorem bitlen_le_of_lt_two_pow {v k : Nat} (h : v < 2 ^ k) : bitlen v ≤ k := by
  by_cases hv : v = 0
  · simp [hv]
  · have := (Nat.pow_lt_pow_iff_right (by norm_num : 1 < 2)).1 ((two_pow_bitlen_le hv).trans_lt h)
    omega

/-- Halving takes one bit off a nonzero value. -/
theorem bitlen_half_lt {v : Nat} (h : v ≠ 0) : bitlen (v / 2) < bitlen v := by
  have hp : 0 < bitlen v := by rw [bitlen_of_ne_zero h]; omega
  have hu := lt_two_pow_bitlen v
  have : bitlen (v / 2) ≤ bitlen v - 1 := by
    apply bitlen_le_of_lt_two_pow
    have : 2 ^ bitlen v = 2 ^ (bitlen v - 1) * 2 := by rw [← pow_succ]; congr 1; omega
    omega
  omega

theorem bitlen_mono {v w : Nat} (h : v ≤ w) : bitlen v ≤ bitlen w :=
  bitlen_le_of_lt_two_pow (h.trans_lt (lt_two_pow_bitlen w))

/-- A remainder by `r` of a value not below `r` has fewer bits than the value. -/
theorem bitlen_mod_lt {n r : Nat} (hr : r ≠ 0) (hle : r ≤ n) : bitlen (n % r) < bitlen n := by
  have h2 : n % r ≤ n / 2 := by
    have hlt := Nat.mod_lt n (Nat.pos_of_ne_zero hr)
    have hd := Nat.div_add_mod n r
    have hq : 1 ≤ n / r := (Nat.one_le_div_iff (Nat.pos_of_ne_zero hr)).2 hle
    have : r * 1 ≤ r * (n / r) := Nat.mul_le_mul_left r hq
    omega
  exact (bitlen_mono h2).trans_lt (bitlen_half_lt (by omega))

/-- The loop invariant of R58: with `acc = a^(b / 2^i) mod m` it ends in `a^b mod m`. -/
theorem modexpLoop_eq (a b m : Nat) :
    ∀ i acc, acc = a ^ (b / 2 ^ i) % m → modexpLoop a b m i acc = a ^ b % m
  | 0, acc, h => by simpa [modexpLoop] using h
  | i + 1, acc, h => by
    apply modexpLoop_eq a b m i
    have hb : b / 2 ^ i = 2 * (b / 2 ^ (i + 1)) + (b.testBit i).toNat := by
      rw [Nat.toNat_testBit, pow_succ, ← Nat.div_div_eq_div_mul]; omega
    have hsq : acc ^ 2 % m = a ^ (2 * (b / 2 ^ (i + 1))) % m := by
      rw [h, ← Nat.pow_mod, ← pow_mul, mul_comm]
    rw [hb]
    cases b.testBit i
    · simpa using hsq
    · rw [if_pos rfl, Bool.toNat_true, hsq, ← Nat.mul_mod, ← pow_succ]

/-- R57: `modexp(a, b, m) = (a^b) mod m`. -/
theorem modexp_eq (a b m : Nat) : modexp a b m = a ^ b % m := by
  apply modexpLoop_eq
  rw [Nat.div_eq_of_lt (lt_two_pow_bitlen b), pow_zero]

theorem modexp_lt (a b : Nat) {m : Nat} (h : 0 < m) : modexp a b m < m := by
  rw [modexp_eq]; exact Nat.mod_lt _ h

/-- The loop invariant of R64: `r_i ≡ s_i * a (mod m)` is kept down to the greatest common divisor. -/
theorem invLoop_spec (a m : Nat) :
    ∀ turns r0 r1 s0 s1, bitlen r0 + bitlen r1 < turns → r1 < r0 → Nat.gcd r0 r1 = 1 →
      (r0 : Int) ≡ s0 * a [ZMOD m] → (r1 : Int) ≡ s1 * a [ZMOD m] →
      invLoop turns r0 r1 s0 s1 * a ≡ 1 [ZMOD m]
  | 0, _, _, _, _, ht, _, _, _, _ => by omega
  | turns + 1, r0, r1, s0, s1, ht, hlt, hg, h0, h1 => by
    unfold invLoop
    split
    · subst r1
      have hr0 : r0 = 1 := by simpa using hg
      subst r0
      exact h0.symm
    · rename_i hr1
      apply invLoop_spec a m turns r1 (r0 % r1)
      · have := bitlen_mod_lt hr1 hlt.le; omega
      · exact Nat.mod_lt _ (Nat.pos_of_ne_zero hr1)
      · rw [Nat.gcd_comm, ← Nat.gcd_rec, Nat.gcd_comm]; exact hg
      · exact h1
      · have hmod : ((r0 % r1 : Nat) : Int) = r0 - (r0 / r1 : Nat) * r1 := by
          have := Nat.div_add_mod r0 r1
          have h : (r0 : Int) = r1 * (r0 / r1 : Nat) + (r0 % r1 : Nat) := by exact_mod_cast this.symm
          linarith
        rw [hmod, sub_mul, mul_assoc]
        exact h0.sub (h1.mul_left _)

/-- R9: the inverse lies in `0 .. m-1` and `a*x mod m = 1 mod m`. -/
theorem inv_spec {a m : Nat} (hm : 0 < m) (hg : Nat.gcd a m = 1) :
    inv a m < m ∧ a * inv a m % m = 1 % m := by
  by_cases h1 : m = 1
  · subst h1; simp [inv]
  · have hmi : (0 : Int) < m := by exact_mod_cast hm
    have key := invLoop_spec a m (bitlen m + bitlen (a % m) + 1) m (a % m) 0 1 (by omega)
      (Nat.mod_lt _ hm) (by rw [Nat.gcd_comm, ← Nat.gcd_rec, Nat.gcd_comm]; exact hg)
      (by simp [Int.ModEq]) (by simp [Int.ModEq])
    simp only [inv, h1, if_false]
    generalize invLoop _ _ _ _ _ = x at key
    have hx0 := Int.emod_nonneg x hmi.ne'
    have hx1 := Int.emod_lt_of_pos x hmi
    have hcast : (((x % (m : Int)).toNat : Nat) : Int) = x % m := Int.toNat_of_nonneg hx0
    refine ⟨by omega, ?_⟩
    have : ((a * (x % (m : Int)).toNat % m : Nat) : Int) = ((1 % m : Nat) : Int) := by
      push_cast
      rw [hcast]
      have h2 : (a : Int) * (x % m) ≡ 1 [ZMOD m] := by
        have h3 : (a : Int) * (x % m) ≡ a * x [ZMOD m] := (Int.mod_modEq x m).mul_left _
        exact h3.trans (by rw [mul_comm]; exact key)
      exact h2
    exact_mod_cast this

theorem inv_lt {a m : Nat} (hm : 0 < m) (hg : Nat.gcd a m = 1) : inv a m < m := (inv_spec hm hg).1

/-- R55: the Montgomery product is the residue `x` with `x * 2^kmax ≡ a*b (mod m)`. -/
theorem montgomery_spec (kmax a b : Nat) {m : Nat} (hm : m % 2 = 1) :
    montgomery kmax a b m < m ∧ montgomery kmax a b m * 2 ^ kmax % m = a * b % m := by
  have hpos : 0 < m := by omega
  refine ⟨Nat.mod_lt _ hpos, ?_⟩
  have hcop : Nat.gcd (2 ^ kmax % m) m = 1 := by
    rw [← Nat.gcd_rec, Nat.gcd_comm]
    exact Nat.Coprime.pow_left kmax ((Nat.coprime_two_left).2 (Nat.odd_iff.2 hm))
  have hinv := (inv_spec hpos hcop).2
  unfold montgomery
  have h1 : a * b * inv (2 ^ kmax % m) m % m * 2 ^ kmax ≡ a * b * (2 ^ kmax % m * inv (2 ^ kmax % m) m) [MOD m] := by
    have h2 : a * b * inv (2 ^ kmax % m) m % m * 2 ^ kmax ≡
        a * b * inv (2 ^ kmax % m) m * (2 ^ kmax % m) [MOD m] :=
      (Nat.mod_modEq _ m).mul (Nat.mod_modEq _ m).symm
    refine h2.trans ?_
    rw [show a * b * inv (2 ^ kmax % m) m * (2 ^ kmax % m) =
      a * b * (2 ^ kmax % m * inv (2 ^ kmax % m) m) by ring]
  have h3 : a * b * (2 ^ kmax % m * inv (2 ^ kmax % m) m) ≡ a * b * 1 [MOD m] := Nat.ModEq.mul_left _ hinv
  rw [mul_one] at h3
  exact h1.trans h3

@[simp] theorem Sym.toInt_neg (t : Sym) : t.neg.toInt = -t.toInt := by cases t <;> rfl

@[simp] theorem Sym.toInt_eq_zero {t : Sym} : t.toInt = 0 ↔ t = .zero := by cases t <;> decide

theorem Sym.toInt_injective {t u : Sym} (h : t.toInt = u.toInt) : t = u := by
  revert h; cases t <;> cases u <;> decide

/-- The symbol of a halved argument (R62: the sign turns where n mod 8 is 3 or 5). -/
theorem jacobiSym_half {a n : Nat} (ha : a % 2 = 0) (hn : n % 2 = 1) :
    jacobiSym a n = (if n % 8 = 3 ∨ n % 8 = 5 then -1 else 1) * jacobiSym (a / 2 : Nat) n := by
  obtain ⟨k, rfl⟩ : ∃ k, a = 2 * k := ⟨a / 2, by omega⟩
  rw [show 2 * k / 2 = k by omega, Nat.cast_mul, jacobiSym.mul_left]
  congr 1
  rw [Nat.cast_ofNat, jacobiSym.at_two (Nat.odd_iff.2 hn), ZMod.χ₈_nat_eq_if_mod_eight]
  have h8 : n % 8 = 1 ∨ n % 8 = 3 ∨ n % 8 = 5 ∨ n % 8 = 7 := by omega
  rcases h8 with h | h | h | h <;> simp [h, hn]

/-- The symbol of swapped odd arguments (R62: the sign turns where both are 3 mod 4). -/
theorem jacobiSym_swap {a n : Nat} (ha : a % 2 = 1) (hn : n % 2 = 1) :
    jacobiSym a n = (if n % 4 = 3 ∧ a % 4 = 3 then -1 else 1) * jacobiSym (n % a : Nat) a := by
  have hmod : jacobiSym ((n % a : Nat) : Int) a = jacobiSym n a := by
    rw [Int.natCast_mod, ← jacobiSym.mod_left]
  rw [hmod, jacobiSym.quadratic_reciprocity' (Nat.odd_iff.2 ha) (Nat.odd_iff.2 hn)]
  unfold qrSign
  have ha4 : a % 4 = 1 ∨ a % 4 = 3 := by omega
  have hn4 : n % 4 = 1 ∨ n % 4 = 3 := by omega
  rcases hn4 with h | h
  · rw [ZMod.χ₄_nat_one_mod_four h, jacobiSym.one_left]
    simp [h]
  · rw [ZMod.χ₄_nat_three_mod_four h, jacobiSym.at_neg_one (Nat.odd_iff.2 ha)]
    rcases ha4 with k | k
    · rw [ZMod.χ₄_nat_one_mod_four k]; simp [k]
    · rw [ZMod.χ₄_nat_three_mod_four k]; simp [h, k]

/-- The loops of R62 compute `t * J(a, n)`. -/
theorem jacobiLoop_eq : ∀ turns a n t, bitlen a + bitlen n < turns → a < n → n % 2 = 1 →
    (jacobiLoop turns a n t).toInt = t.toInt * jacobiSym a n
  | 0, _, _, _, ht, _, _ => by omega
  | turns + 1, a, n, t, ht, hlt, hn => by
    unfold jacobiLoop
    split
    · subst a
      split
      · subst n; simp
      · rename_i h1
        rw [Nat.cast_zero, jacobiSym.zero_left (by omega)]
        simp [Sym.toInt]
    · rename_i ha0
      split
      · rename_i ha
        have hrec := jacobiLoop_eq turns (a / 2) n (if n % 8 = 3 ∨ n % 8 = 5 then t.neg else t)
          (by have := bitlen_half_lt ha0; omega) (by omega) hn
        rw [hrec, jacobiSym_half ha hn]
        split <;> simp
      · rename_i ha
        have ha' : a % 2 = 1 := by omega
        have hrec := jacobiLoop_eq turns (n % a) a (if n % 4 = 3 ∧ a % 4 = 3 then t.neg else t)
          (by have := bitlen_mod_lt ha0 hlt.le; omega) (Nat.mod_lt _ (Nat.pos_of_ne_zero ha0)) ha'
        rw [hrec, jacobiSym_swap ha' hn]
        split <;> simp

/-- R62: `jacobi a n` is the Jacobi symbol of Mathlib, defined there through Legendre symbols. -/
theorem jacobi_eq (a : Nat) {n : Nat} (hn : n % 2 = 1) : (jacobi a n).toInt = jacobiSym a n := by
  have hpos : 0 < n := by omega
  rw [jacobi, jacobiLoop_eq _ _ _ _ (by omega) (Nat.mod_lt _ hpos) hn, Int.natCast_mod, ← jacobiSym.mod_left]
  simp [Sym.toInt]

/-- R65: a trial matches exactly when the symbol is nonzero and the power is its residue. -/
theorem trial_eq_true {c a : Nat} :
    trial c a = true ↔ jacobi a c ≠ .zero ∧ a ^ ((c - 1) / 2) % c = (jacobi a c).expected c := by
  simp [trial, modexp_eq]

end Sys2Proof.Machine
end

