-- ==== Sys2Proof/Laws/State.lean ====
section
/-! SUPPORT. One lemma per field per update of State, each true by rfl: no later proof unfolds a record update. -/

namespace Sys2Proof.Machine

@[simp] theorem State.begin_a (s : State) (op : BitVec 4) : (s.begin op).a = s.a := rfl
@[simp] theorem State.begin_b (s : State) (op : BitVec 4) : (s.begin op).b = s.b := rfl
@[simp] theorem State.begin_m (s : State) (op : BitVec 4) : (s.begin op).m = s.m := rfl
@[simp] theorem State.begin_r (s : State) (op : BitVec 4) : (s.begin op).r = s.r := rfl
@[simp] theorem State.begin_kn (s : State) (op : BitVec 4) : (s.begin op).kn = s.kn := rfl
@[simp] theorem State.begin_kp (s : State) (op : BitVec 4) : (s.begin op).kp = s.kp := rfl
@[simp] theorem State.begin_kq (s : State) (op : BitVec 4) : (s.begin op).kq = s.kq := rfl
@[simp] theorem State.begin_ke (s : State) (op : BitVec 4) : (s.begin op).ke = s.ke := rfl
@[simp] theorem State.begin_kd (s : State) (op : BitVec 4) : (s.begin op).kd = s.kd := rfl
@[simp] theorem State.begin_kbits (s : State) (op : BitVec 4) : (s.begin op).kbits = s.kbits := rfl
@[simp] theorem State.begin_pbits (s : State) (op : BitVec 4) : (s.begin op).pbits = s.pbits := rfl
@[simp] theorem State.begin_done (s : State) (op : BitVec 4) : (s.begin op).done = false := rfl
@[simp] theorem State.begin_diag (s : State) (op : BitVec 4) : (s.begin op).diag = s.diag := rfl
@[simp] theorem State.begin_prime (s : State) (op : BitVec 4) : (s.begin op).prime = s.prime := rfl
@[simp] theorem State.begin_jac (s : State) (op : BitVec 4) : (s.begin op).jac = s.jac := rfl
@[simp] theorem State.begin_err (s : State) (op : BitVec 4) : (s.begin op).err = .none := rfl
@[simp] theorem State.begin_rounds (s : State) (op : BitVec 4) : (s.begin op).rounds = s.rounds := rfl
@[simp] theorem State.begin_ie (s : State) (op : BitVec 4) : (s.begin op).ie = s.ie := rfl
@[simp] theorem State.begin_config (s : State) (op : BitVec 4) : (s.begin op).config = s.config := rfl
@[simp] theorem State.begin_phase (s : State) (op : BitVec 4) : (s.begin op).phase = s.phase := rfl
@[simp] theorem State.begin_opc (s : State) (op : BitVec 4) : (s.begin op).opc = op := rfl
@[simp] theorem State.begin_c (s : State) (op : BitVec 4) : (s.begin op).c = s.c := rfl
@[simp] theorem State.begin_t (s : State) (op : BitVec 4) : (s.begin op).t = s.t := rfl
@[simp] theorem State.begin_l (s : State) (op : BitVec 4) : (s.begin op).l = s.l := rfl
@[simp] theorem State.begin_h (s : State) (op : BitVec 4) : (s.begin op).h = s.h := rfl
@[simp] theorem State.begin_cp (s : State) (op : BitVec 4) : (s.begin op).cp = s.cp := rfl
@[simp] theorem State.begin_cq (s : State) (op : BitVec 4) : (s.begin op).cq = s.cq := rfl
@[simp] theorem State.begin_env (s : State) (op : BitVec 4) : (s.begin op).env = s.env := rfl

@[simp] theorem State.complete_a (s : State) (code : ErrCode) : (s.complete code).a = s.a := rfl
@[simp] theorem State.complete_b (s : State) (code : ErrCode) : (s.complete code).b = s.b := rfl
@[simp] theorem State.complete_m (s : State) (code : ErrCode) : (s.complete code).m = s.m := rfl
@[simp] theorem State.complete_r (s : State) (code : ErrCode) : (s.complete code).r = s.r := rfl
@[simp] theorem State.complete_kn (s : State) (code : ErrCode) : (s.complete code).kn = s.kn := rfl
@[simp] theorem State.complete_kp (s : State) (code : ErrCode) : (s.complete code).kp = s.kp := rfl
@[simp] theorem State.complete_kq (s : State) (code : ErrCode) : (s.complete code).kq = s.kq := rfl
@[simp] theorem State.complete_ke (s : State) (code : ErrCode) : (s.complete code).ke = s.ke := rfl
@[simp] theorem State.complete_kd (s : State) (code : ErrCode) : (s.complete code).kd = s.kd := rfl
@[simp] theorem State.complete_kbits (s : State) (code : ErrCode) : (s.complete code).kbits = s.kbits := rfl
@[simp] theorem State.complete_pbits (s : State) (code : ErrCode) : (s.complete code).pbits = s.pbits := rfl
@[simp] theorem State.complete_done (s : State) (code : ErrCode) : (s.complete code).done = true := rfl
@[simp] theorem State.complete_diag (s : State) (code : ErrCode) : (s.complete code).diag = s.diag := rfl
@[simp] theorem State.complete_prime (s : State) (code : ErrCode) : (s.complete code).prime = s.prime := rfl
@[simp] theorem State.complete_jac (s : State) (code : ErrCode) : (s.complete code).jac = s.jac := rfl
@[simp] theorem State.complete_err (s : State) (code : ErrCode) : (s.complete code).err = code := rfl
@[simp] theorem State.complete_rounds (s : State) (code : ErrCode) : (s.complete code).rounds = s.rounds := rfl
@[simp] theorem State.complete_ie (s : State) (code : ErrCode) : (s.complete code).ie = s.ie := rfl
@[simp] theorem State.complete_config (s : State) (code : ErrCode) : (s.complete code).config = s.config := rfl
@[simp] theorem State.complete_phase (s : State) (code : ErrCode) : (s.complete code).phase = .idle := rfl
@[simp] theorem State.complete_opc (s : State) (code : ErrCode) : (s.complete code).opc = s.opc := rfl
@[simp] theorem State.complete_c (s : State) (code : ErrCode) : (s.complete code).c = s.c := rfl
@[simp] theorem State.complete_t (s : State) (code : ErrCode) : (s.complete code).t = s.t := rfl
@[simp] theorem State.complete_l (s : State) (code : ErrCode) : (s.complete code).l = s.l := rfl
@[simp] theorem State.complete_h (s : State) (code : ErrCode) : (s.complete code).h = s.h := rfl
@[simp] theorem State.complete_cp (s : State) (code : ErrCode) : (s.complete code).cp = s.cp := rfl
@[simp] theorem State.complete_cq (s : State) (code : ErrCode) : (s.complete code).cq = s.cq := rfl
@[simp] theorem State.complete_env (s : State) (code : ErrCode) : (s.complete code).env = s.env := rfl

@[simp] theorem State.raise_a (s : State) (code : ErrCode) : (s.raise code).a = s.a := rfl
@[simp] theorem State.raise_b (s : State) (code : ErrCode) : (s.raise code).b = s.b := rfl
@[simp] theorem State.raise_m (s : State) (code : ErrCode) : (s.raise code).m = s.m := rfl
@[simp] theorem State.raise_r (s : State) (code : ErrCode) : (s.raise code).r = s.r := rfl
@[simp] theorem State.raise_kn (s : State) (code : ErrCode) : (s.raise code).kn = s.kn := rfl
@[simp] theorem State.raise_kp (s : State) (code : ErrCode) : (s.raise code).kp = s.kp := rfl
@[simp] theorem State.raise_kq (s : State) (code : ErrCode) : (s.raise code).kq = s.kq := rfl
@[simp] theorem State.raise_ke (s : State) (code : ErrCode) : (s.raise code).ke = s.ke := rfl
@[simp] theorem State.raise_kd (s : State) (code : ErrCode) : (s.raise code).kd = s.kd := rfl
@[simp] theorem State.raise_kbits (s : State) (code : ErrCode) : (s.raise code).kbits = s.kbits := rfl
@[simp] theorem State.raise_pbits (s : State) (code : ErrCode) : (s.raise code).pbits = s.pbits := rfl
@[simp] theorem State.raise_done (s : State) (code : ErrCode) : (s.raise code).done = true := rfl
@[simp] theorem State.raise_diag (s : State) (code : ErrCode) : (s.raise code).diag = s.diag := rfl
@[simp] theorem State.raise_prime (s : State) (code : ErrCode) : (s.raise code).prime = s.prime := rfl
@[simp] theorem State.raise_jac (s : State) (code : ErrCode) : (s.raise code).jac = s.jac := rfl
@[simp] theorem State.raise_err (s : State) (code : ErrCode) : (s.raise code).err = code := rfl
@[simp] theorem State.raise_rounds (s : State) (code : ErrCode) : (s.raise code).rounds = s.rounds := rfl
@[simp] theorem State.raise_ie (s : State) (code : ErrCode) : (s.raise code).ie = s.ie := rfl
@[simp] theorem State.raise_config (s : State) (code : ErrCode) : (s.raise code).config = s.config := rfl
@[simp] theorem State.raise_phase (s : State) (code : ErrCode) : (s.raise code).phase = .idle := rfl
@[simp] theorem State.raise_opc (s : State) (code : ErrCode) : (s.raise code).opc = s.opc := rfl
@[simp] theorem State.raise_c (s : State) (code : ErrCode) : (s.raise code).c = s.c := rfl
@[simp] theorem State.raise_t (s : State) (code : ErrCode) : (s.raise code).t = s.t := rfl
@[simp] theorem State.raise_l (s : State) (code : ErrCode) : (s.raise code).l = s.l := rfl
@[simp] theorem State.raise_h (s : State) (code : ErrCode) : (s.raise code).h = s.h := rfl
@[simp] theorem State.raise_cp (s : State) (code : ErrCode) : (s.raise code).cp = s.cp := rfl
@[simp] theorem State.raise_cq (s : State) (code : ErrCode) : (s.raise code).cq = s.cq := rfl
@[simp] theorem State.raise_env (s : State) (code : ErrCode) : (s.raise code).env = s.env := rfl

@[simp] theorem State.enter_a (s : State) (p : Phase) : (s.enter p).a = s.a := rfl
@[simp] theorem State.enter_b (s : State) (p : Phase) : (s.enter p).b = s.b := rfl
@[simp] theorem State.enter_m (s : State) (p : Phase) : (s.enter p).m = s.m := rfl
@[simp] theorem State.enter_r (s : State) (p : Phase) : (s.enter p).r = s.r := rfl
@[simp] theorem State.enter_kn (s : State) (p : Phase) : (s.enter p).kn = s.kn := rfl
@[simp] theorem State.enter_kp (s : State) (p : Phase) : (s.enter p).kp = s.kp := rfl
@[simp] theorem State.enter_kq (s : State) (p : Phase) : (s.enter p).kq = s.kq := rfl
@[simp] theorem State.enter_ke (s : State) (p : Phase) : (s.enter p).ke = s.ke := rfl
@[simp] theorem State.enter_kd (s : State) (p : Phase) : (s.enter p).kd = s.kd := rfl
@[simp] theorem State.enter_kbits (s : State) (p : Phase) : (s.enter p).kbits = s.kbits := rfl
@[simp] theorem State.enter_pbits (s : State) (p : Phase) : (s.enter p).pbits = s.pbits := rfl
@[simp] theorem State.enter_done (s : State) (p : Phase) : (s.enter p).done = s.done := rfl
@[simp] theorem State.enter_diag (s : State) (p : Phase) : (s.enter p).diag = s.diag := rfl
@[simp] theorem State.enter_prime (s : State) (p : Phase) : (s.enter p).prime = s.prime := rfl
@[simp] theorem State.enter_jac (s : State) (p : Phase) : (s.enter p).jac = s.jac := rfl
@[simp] theorem State.enter_err (s : State) (p : Phase) : (s.enter p).err = s.err := rfl
@[simp] theorem State.enter_rounds (s : State) (p : Phase) : (s.enter p).rounds = s.rounds := rfl
@[simp] theorem State.enter_ie (s : State) (p : Phase) : (s.enter p).ie = s.ie := rfl
@[simp] theorem State.enter_config (s : State) (p : Phase) : (s.enter p).config = s.config := rfl
@[simp] theorem State.enter_phase (s : State) (p : Phase) : (s.enter p).phase = p := rfl
@[simp] theorem State.enter_opc (s : State) (p : Phase) : (s.enter p).opc = s.opc := rfl
@[simp] theorem State.enter_c (s : State) (p : Phase) : (s.enter p).c = s.c := rfl
@[simp] theorem State.enter_t (s : State) (p : Phase) : (s.enter p).t = s.t := rfl
@[simp] theorem State.enter_l (s : State) (p : Phase) : (s.enter p).l = s.l := rfl
@[simp] theorem State.enter_h (s : State) (p : Phase) : (s.enter p).h = s.h := rfl
@[simp] theorem State.enter_cp (s : State) (p : Phase) : (s.enter p).cp = s.cp := rfl
@[simp] theorem State.enter_cq (s : State) (p : Phase) : (s.enter p).cq = s.cq := rfl
@[simp] theorem State.enter_env (s : State) (p : Phase) : (s.enter p).env = s.env := rfl

@[simp] theorem State.verdict_a (s : State) (p : Bool) : (s.verdict p).a = s.a := rfl
@[simp] theorem State.verdict_b (s : State) (p : Bool) : (s.verdict p).b = s.b := rfl
@[simp] theorem State.verdict_m (s : State) (p : Bool) : (s.verdict p).m = s.m := rfl
@[simp] theorem State.verdict_r (s : State) (p : Bool) : (s.verdict p).r = s.r := rfl
@[simp] theorem State.verdict_kn (s : State) (p : Bool) : (s.verdict p).kn = s.kn := rfl
@[simp] theorem State.verdict_kp (s : State) (p : Bool) : (s.verdict p).kp = s.kp := rfl
@[simp] theorem State.verdict_kq (s : State) (p : Bool) : (s.verdict p).kq = s.kq := rfl
@[simp] theorem State.verdict_ke (s : State) (p : Bool) : (s.verdict p).ke = s.ke := rfl
@[simp] theorem State.verdict_kd (s : State) (p : Bool) : (s.verdict p).kd = s.kd := rfl
@[simp] theorem State.verdict_kbits (s : State) (p : Bool) : (s.verdict p).kbits = s.kbits := rfl
@[simp] theorem State.verdict_pbits (s : State) (p : Bool) : (s.verdict p).pbits = s.pbits := rfl
@[simp] theorem State.verdict_done (s : State) (p : Bool) : (s.verdict p).done = true := rfl
@[simp] theorem State.verdict_diag (s : State) (p : Bool) : (s.verdict p).diag = s.diag := rfl
@[simp] theorem State.verdict_prime (s : State) (p : Bool) : (s.verdict p).prime = p := rfl
@[simp] theorem State.verdict_jac (s : State) (p : Bool) : (s.verdict p).jac = s.jac := rfl
@[simp] theorem State.verdict_err (s : State) (p : Bool) : (s.verdict p).err = .none := rfl
@[simp] theorem State.verdict_rounds (s : State) (p : Bool) : (s.verdict p).rounds = s.rounds := rfl
@[simp] theorem State.verdict_ie (s : State) (p : Bool) : (s.verdict p).ie = s.ie := rfl
@[simp] theorem State.verdict_config (s : State) (p : Bool) : (s.verdict p).config = s.config := rfl
@[simp] theorem State.verdict_phase (s : State) (p : Bool) : (s.verdict p).phase = .idle := rfl
@[simp] theorem State.verdict_opc (s : State) (p : Bool) : (s.verdict p).opc = s.opc := rfl
@[simp] theorem State.verdict_c (s : State) (p : Bool) : (s.verdict p).c = s.c := rfl
@[simp] theorem State.verdict_t (s : State) (p : Bool) : (s.verdict p).t = s.t := rfl
@[simp] theorem State.verdict_l (s : State) (p : Bool) : (s.verdict p).l = s.l := rfl
@[simp] theorem State.verdict_h (s : State) (p : Bool) : (s.verdict p).h = s.h := rfl
@[simp] theorem State.verdict_cp (s : State) (p : Bool) : (s.verdict p).cp = s.cp := rfl
@[simp] theorem State.verdict_cq (s : State) (p : Bool) : (s.verdict p).cq = s.cq := rfl
@[simp] theorem State.verdict_env (s : State) (p : Bool) : (s.verdict p).env = s.env := rfl

@[simp] theorem State.setJac_a (s : State) (j : Sym) : (s.setJac j).a = s.a := rfl
@[simp] theorem State.setJac_b (s : State) (j : Sym) : (s.setJac j).b = s.b := rfl
@[simp] theorem State.setJac_m (s : State) (j : Sym) : (s.setJac j).m = s.m := rfl
@[simp] theorem State.setJac_r (s : State) (j : Sym) : (s.setJac j).r = s.r := rfl
@[simp] theorem State.setJac_kn (s : State) (j : Sym) : (s.setJac j).kn = s.kn := rfl
@[simp] theorem State.setJac_kp (s : State) (j : Sym) : (s.setJac j).kp = s.kp := rfl
@[simp] theorem State.setJac_kq (s : State) (j : Sym) : (s.setJac j).kq = s.kq := rfl
@[simp] theorem State.setJac_ke (s : State) (j : Sym) : (s.setJac j).ke = s.ke := rfl
@[simp] theorem State.setJac_kd (s : State) (j : Sym) : (s.setJac j).kd = s.kd := rfl
@[simp] theorem State.setJac_kbits (s : State) (j : Sym) : (s.setJac j).kbits = s.kbits := rfl
@[simp] theorem State.setJac_pbits (s : State) (j : Sym) : (s.setJac j).pbits = s.pbits := rfl
@[simp] theorem State.setJac_done (s : State) (j : Sym) : (s.setJac j).done = s.done := rfl
@[simp] theorem State.setJac_diag (s : State) (j : Sym) : (s.setJac j).diag = s.diag := rfl
@[simp] theorem State.setJac_prime (s : State) (j : Sym) : (s.setJac j).prime = s.prime := rfl
@[simp] theorem State.setJac_jac (s : State) (j : Sym) : (s.setJac j).jac = j := rfl
@[simp] theorem State.setJac_err (s : State) (j : Sym) : (s.setJac j).err = s.err := rfl
@[simp] theorem State.setJac_rounds (s : State) (j : Sym) : (s.setJac j).rounds = s.rounds := rfl
@[simp] theorem State.setJac_ie (s : State) (j : Sym) : (s.setJac j).ie = s.ie := rfl
@[simp] theorem State.setJac_config (s : State) (j : Sym) : (s.setJac j).config = s.config := rfl
@[simp] theorem State.setJac_phase (s : State) (j : Sym) : (s.setJac j).phase = s.phase := rfl
@[simp] theorem State.setJac_opc (s : State) (j : Sym) : (s.setJac j).opc = s.opc := rfl
@[simp] theorem State.setJac_c (s : State) (j : Sym) : (s.setJac j).c = s.c := rfl
@[simp] theorem State.setJac_t (s : State) (j : Sym) : (s.setJac j).t = s.t := rfl
@[simp] theorem State.setJac_l (s : State) (j : Sym) : (s.setJac j).l = s.l := rfl
@[simp] theorem State.setJac_h (s : State) (j : Sym) : (s.setJac j).h = s.h := rfl
@[simp] theorem State.setJac_cp (s : State) (j : Sym) : (s.setJac j).cp = s.cp := rfl
@[simp] theorem State.setJac_cq (s : State) (j : Sym) : (s.setJac j).cq = s.cq := rfl
@[simp] theorem State.setJac_env (s : State) (j : Sym) : (s.setJac j).env = s.env := rfl

@[simp] theorem State.setPrime_a (s : State) (p : Bool) : (s.setPrime p).a = s.a := rfl
@[simp] theorem State.setPrime_b (s : State) (p : Bool) : (s.setPrime p).b = s.b := rfl
@[simp] theorem State.setPrime_m (s : State) (p : Bool) : (s.setPrime p).m = s.m := rfl
@[simp] theorem State.setPrime_r (s : State) (p : Bool) : (s.setPrime p).r = s.r := rfl
@[simp] theorem State.setPrime_kn (s : State) (p : Bool) : (s.setPrime p).kn = s.kn := rfl
@[simp] theorem State.setPrime_kp (s : State) (p : Bool) : (s.setPrime p).kp = s.kp := rfl
@[simp] theorem State.setPrime_kq (s : State) (p : Bool) : (s.setPrime p).kq = s.kq := rfl
@[simp] theorem State.setPrime_ke (s : State) (p : Bool) : (s.setPrime p).ke = s.ke := rfl
@[simp] theorem State.setPrime_kd (s : State) (p : Bool) : (s.setPrime p).kd = s.kd := rfl
@[simp] theorem State.setPrime_kbits (s : State) (p : Bool) : (s.setPrime p).kbits = s.kbits := rfl
@[simp] theorem State.setPrime_pbits (s : State) (p : Bool) : (s.setPrime p).pbits = s.pbits := rfl
@[simp] theorem State.setPrime_done (s : State) (p : Bool) : (s.setPrime p).done = s.done := rfl
@[simp] theorem State.setPrime_diag (s : State) (p : Bool) : (s.setPrime p).diag = s.diag := rfl
@[simp] theorem State.setPrime_prime (s : State) (p : Bool) : (s.setPrime p).prime = p := rfl
@[simp] theorem State.setPrime_jac (s : State) (p : Bool) : (s.setPrime p).jac = s.jac := rfl
@[simp] theorem State.setPrime_err (s : State) (p : Bool) : (s.setPrime p).err = s.err := rfl
@[simp] theorem State.setPrime_rounds (s : State) (p : Bool) : (s.setPrime p).rounds = s.rounds := rfl
@[simp] theorem State.setPrime_ie (s : State) (p : Bool) : (s.setPrime p).ie = s.ie := rfl
@[simp] theorem State.setPrime_config (s : State) (p : Bool) : (s.setPrime p).config = s.config := rfl
@[simp] theorem State.setPrime_phase (s : State) (p : Bool) : (s.setPrime p).phase = s.phase := rfl
@[simp] theorem State.setPrime_opc (s : State) (p : Bool) : (s.setPrime p).opc = s.opc := rfl
@[simp] theorem State.setPrime_c (s : State) (p : Bool) : (s.setPrime p).c = s.c := rfl
@[simp] theorem State.setPrime_t (s : State) (p : Bool) : (s.setPrime p).t = s.t := rfl
@[simp] theorem State.setPrime_l (s : State) (p : Bool) : (s.setPrime p).l = s.l := rfl
@[simp] theorem State.setPrime_h (s : State) (p : Bool) : (s.setPrime p).h = s.h := rfl
@[simp] theorem State.setPrime_cp (s : State) (p : Bool) : (s.setPrime p).cp = s.cp := rfl
@[simp] theorem State.setPrime_cq (s : State) (p : Bool) : (s.setPrime p).cq = s.cq := rfl
@[simp] theorem State.setPrime_env (s : State) (p : Bool) : (s.setPrime p).env = s.env := rfl

@[simp] theorem State.noteSelfCheck_a (s : State) (ok : Bool) : (s.noteSelfCheck ok).a = s.a := rfl
@[simp] theorem State.noteSelfCheck_b (s : State) (ok : Bool) : (s.noteSelfCheck ok).b = s.b := rfl
@[simp] theorem State.noteSelfCheck_m (s : State) (ok : Bool) : (s.noteSelfCheck ok).m = s.m := rfl
@[simp] theorem State.noteSelfCheck_r (s : State) (ok : Bool) : (s.noteSelfCheck ok).r = s.r := rfl
@[simp] theorem State.noteSelfCheck_kn (s : State) (ok : Bool) : (s.noteSelfCheck ok).kn = s.kn := rfl
@[simp] theorem State.noteSelfCheck_kp (s : State) (ok : Bool) : (s.noteSelfCheck ok).kp = s.kp := rfl
@[simp] theorem State.noteSelfCheck_kq (s : State) (ok : Bool) : (s.noteSelfCheck ok).kq = s.kq := rfl
@[simp] theorem State.noteSelfCheck_ke (s : State) (ok : Bool) : (s.noteSelfCheck ok).ke = s.ke := rfl
@[simp] theorem State.noteSelfCheck_kd (s : State) (ok : Bool) : (s.noteSelfCheck ok).kd = s.kd := rfl
@[simp] theorem State.noteSelfCheck_kbits (s : State) (ok : Bool) : (s.noteSelfCheck ok).kbits = s.kbits := rfl
@[simp] theorem State.noteSelfCheck_pbits (s : State) (ok : Bool) : (s.noteSelfCheck ok).pbits = s.pbits := rfl
@[simp] theorem State.noteSelfCheck_done (s : State) (ok : Bool) : (s.noteSelfCheck ok).done = s.done := rfl
@[simp] theorem State.noteSelfCheck_diag (s : State) (ok : Bool) : (s.noteSelfCheck ok).diag = (s.diag || !ok) := rfl
@[simp] theorem State.noteSelfCheck_prime (s : State) (ok : Bool) : (s.noteSelfCheck ok).prime = s.prime := rfl
@[simp] theorem State.noteSelfCheck_jac (s : State) (ok : Bool) : (s.noteSelfCheck ok).jac = s.jac := rfl
@[simp] theorem State.noteSelfCheck_err (s : State) (ok : Bool) : (s.noteSelfCheck ok).err = s.err := rfl
@[simp] theorem State.noteSelfCheck_rounds (s : State) (ok : Bool) : (s.noteSelfCheck ok).rounds = s.rounds := rfl
@[simp] theorem State.noteSelfCheck_ie (s : State) (ok : Bool) : (s.noteSelfCheck ok).ie = s.ie := rfl
@[simp] theorem State.noteSelfCheck_config (s : State) (ok : Bool) : (s.noteSelfCheck ok).config = s.config := rfl
@[simp] theorem State.noteSelfCheck_phase (s : State) (ok : Bool) : (s.noteSelfCheck ok).phase = s.phase := rfl
@[simp] theorem State.noteSelfCheck_opc (s : State) (ok : Bool) : (s.noteSelfCheck ok).opc = s.opc := rfl
@[simp] theorem State.noteSelfCheck_c (s : State) (ok : Bool) : (s.noteSelfCheck ok).c = s.c := rfl
@[simp] theorem State.noteSelfCheck_t (s : State) (ok : Bool) : (s.noteSelfCheck ok).t = s.t := rfl
@[simp] theorem State.noteSelfCheck_l (s : State) (ok : Bool) : (s.noteSelfCheck ok).l = s.l := rfl
@[simp] theorem State.noteSelfCheck_h (s : State) (ok : Bool) : (s.noteSelfCheck ok).h = s.h := rfl
@[simp] theorem State.noteSelfCheck_cp (s : State) (ok : Bool) : (s.noteSelfCheck ok).cp = s.cp := rfl
@[simp] theorem State.noteSelfCheck_cq (s : State) (ok : Bool) : (s.noteSelfCheck ok).cq = s.cq := rfl
@[simp] theorem State.noteSelfCheck_env (s : State) (ok : Bool) : (s.noteSelfCheck ok).env = s.env := rfl

@[simp] theorem State.project_a (s : State) (e : Nat) : (s.project e).a = s.a := rfl
@[simp] theorem State.project_b (s : State) (e : Nat) : (s.project e).b = e := rfl
@[simp] theorem State.project_m (s : State) (e : Nat) : (s.project e).m = s.kn := rfl
@[simp] theorem State.project_r (s : State) (e : Nat) : (s.project e).r = s.r := rfl
@[simp] theorem State.project_kn (s : State) (e : Nat) : (s.project e).kn = s.kn := rfl
@[simp] theorem State.project_kp (s : State) (e : Nat) : (s.project e).kp = s.kp := rfl
@[simp] theorem State.project_kq (s : State) (e : Nat) : (s.project e).kq = s.kq := rfl
@[simp] theorem State.project_ke (s : State) (e : Nat) : (s.project e).ke = s.ke := rfl
@[simp] theorem State.project_kd (s : State) (e : Nat) : (s.project e).kd = s.kd := rfl
@[simp] theorem State.project_kbits (s : State) (e : Nat) : (s.project e).kbits = s.kbits := rfl
@[simp] theorem State.project_pbits (s : State) (e : Nat) : (s.project e).pbits = s.kbits := rfl
@[simp] theorem State.project_done (s : State) (e : Nat) : (s.project e).done = s.done := rfl
@[simp] theorem State.project_diag (s : State) (e : Nat) : (s.project e).diag = s.diag := rfl
@[simp] theorem State.project_prime (s : State) (e : Nat) : (s.project e).prime = s.prime := rfl
@[simp] theorem State.project_jac (s : State) (e : Nat) : (s.project e).jac = s.jac := rfl
@[simp] theorem State.project_err (s : State) (e : Nat) : (s.project e).err = s.err := rfl
@[simp] theorem State.project_rounds (s : State) (e : Nat) : (s.project e).rounds = s.rounds := rfl
@[simp] theorem State.project_ie (s : State) (e : Nat) : (s.project e).ie = s.ie := rfl
@[simp] theorem State.project_config (s : State) (e : Nat) : (s.project e).config = s.config := rfl
@[simp] theorem State.project_phase (s : State) (e : Nat) : (s.project e).phase = s.phase := rfl
@[simp] theorem State.project_opc (s : State) (e : Nat) : (s.project e).opc = s.opc := rfl
@[simp] theorem State.project_c (s : State) (e : Nat) : (s.project e).c = s.c := rfl
@[simp] theorem State.project_t (s : State) (e : Nat) : (s.project e).t = s.t := rfl
@[simp] theorem State.project_l (s : State) (e : Nat) : (s.project e).l = s.l := rfl
@[simp] theorem State.project_h (s : State) (e : Nat) : (s.project e).h = s.h := rfl
@[simp] theorem State.project_cp (s : State) (e : Nat) : (s.project e).cp = s.cp := rfl
@[simp] theorem State.project_cq (s : State) (e : Nat) : (s.project e).cq = s.cq := rfl
@[simp] theorem State.project_env (s : State) (e : Nat) : (s.project e).env = s.env := rfl

@[simp] theorem State.writeStatus_a (s : State) (w : Word) : (s.writeStatus w).a = s.a := rfl
@[simp] theorem State.writeStatus_b (s : State) (w : Word) : (s.writeStatus w).b = s.b := rfl
@[simp] theorem State.writeStatus_m (s : State) (w : Word) : (s.writeStatus w).m = s.m := rfl
@[simp] theorem State.writeStatus_r (s : State) (w : Word) : (s.writeStatus w).r = s.r := rfl
@[simp] theorem State.writeStatus_kn (s : State) (w : Word) : (s.writeStatus w).kn = s.kn := rfl
@[simp] theorem State.writeStatus_kp (s : State) (w : Word) : (s.writeStatus w).kp = s.kp := rfl
@[simp] theorem State.writeStatus_kq (s : State) (w : Word) : (s.writeStatus w).kq = s.kq := rfl
@[simp] theorem State.writeStatus_ke (s : State) (w : Word) : (s.writeStatus w).ke = s.ke := rfl
@[simp] theorem State.writeStatus_kd (s : State) (w : Word) : (s.writeStatus w).kd = s.kd := rfl
@[simp] theorem State.writeStatus_kbits (s : State) (w : Word) : (s.writeStatus w).kbits = s.kbits := rfl
@[simp] theorem State.writeStatus_pbits (s : State) (w : Word) : (s.writeStatus w).pbits = s.pbits := rfl
@[simp] theorem State.writeStatus_done (s : State) (w : Word) : (s.writeStatus w).done = (s.done && !w.getLsbD 1) := rfl
@[simp] theorem State.writeStatus_diag (s : State) (w : Word) : (s.writeStatus w).diag = (s.diag && !w.getLsbD 3) := rfl
@[simp] theorem State.writeStatus_prime (s : State) (w : Word) : (s.writeStatus w).prime = s.prime := rfl
@[simp] theorem State.writeStatus_jac (s : State) (w : Word) : (s.writeStatus w).jac = s.jac := rfl
@[simp] theorem State.writeStatus_err (s : State) (w : Word) : (s.writeStatus w).err = s.err := rfl
@[simp] theorem State.writeStatus_rounds (s : State) (w : Word) : (s.writeStatus w).rounds = s.rounds := rfl
@[simp] theorem State.writeStatus_ie (s : State) (w : Word) : (s.writeStatus w).ie = s.ie := rfl
@[simp] theorem State.writeStatus_config (s : State) (w : Word) : (s.writeStatus w).config = s.config := rfl
@[simp] theorem State.writeStatus_phase (s : State) (w : Word) : (s.writeStatus w).phase = s.phase := rfl
@[simp] theorem State.writeStatus_opc (s : State) (w : Word) : (s.writeStatus w).opc = s.opc := rfl
@[simp] theorem State.writeStatus_c (s : State) (w : Word) : (s.writeStatus w).c = s.c := rfl
@[simp] theorem State.writeStatus_t (s : State) (w : Word) : (s.writeStatus w).t = s.t := rfl
@[simp] theorem State.writeStatus_l (s : State) (w : Word) : (s.writeStatus w).l = s.l := rfl
@[simp] theorem State.writeStatus_h (s : State) (w : Word) : (s.writeStatus w).h = s.h := rfl
@[simp] theorem State.writeStatus_cp (s : State) (w : Word) : (s.writeStatus w).cp = s.cp := rfl
@[simp] theorem State.writeStatus_cq (s : State) (w : Word) : (s.writeStatus w).cq = s.cq := rfl
@[simp] theorem State.writeStatus_env (s : State) (w : Word) : (s.writeStatus w).env = s.env := rfl

@[simp] theorem State.writeCtrl_a (s : State) (w : Word) : (s.writeCtrl w).a = s.a := rfl
@[simp] theorem State.writeCtrl_b (s : State) (w : Word) : (s.writeCtrl w).b = s.b := rfl
@[simp] theorem State.writeCtrl_m (s : State) (w : Word) : (s.writeCtrl w).m = s.m := rfl
@[simp] theorem State.writeCtrl_r (s : State) (w : Word) : (s.writeCtrl w).r = s.r := rfl
@[simp] theorem State.writeCtrl_kn (s : State) (w : Word) : (s.writeCtrl w).kn = s.kn := rfl
@[simp] theorem State.writeCtrl_kp (s : State) (w : Word) : (s.writeCtrl w).kp = s.kp := rfl
@[simp] theorem State.writeCtrl_kq (s : State) (w : Word) : (s.writeCtrl w).kq = s.kq := rfl
@[simp] theorem State.writeCtrl_ke (s : State) (w : Word) : (s.writeCtrl w).ke = s.ke := rfl
@[simp] theorem State.writeCtrl_kd (s : State) (w : Word) : (s.writeCtrl w).kd = s.kd := rfl
@[simp] theorem State.writeCtrl_kbits (s : State) (w : Word) : (s.writeCtrl w).kbits = s.kbits := rfl
@[simp] theorem State.writeCtrl_pbits (s : State) (w : Word) : (s.writeCtrl w).pbits = s.pbits := rfl
@[simp] theorem State.writeCtrl_done (s : State) (w : Word) : (s.writeCtrl w).done = s.done := rfl
@[simp] theorem State.writeCtrl_diag (s : State) (w : Word) : (s.writeCtrl w).diag = s.diag := rfl
@[simp] theorem State.writeCtrl_prime (s : State) (w : Word) : (s.writeCtrl w).prime = s.prime := rfl
@[simp] theorem State.writeCtrl_jac (s : State) (w : Word) : (s.writeCtrl w).jac = s.jac := rfl
@[simp] theorem State.writeCtrl_err (s : State) (w : Word) : (s.writeCtrl w).err = s.err := rfl
@[simp] theorem State.writeCtrl_rounds (s : State) (w : Word) : (s.writeCtrl w).rounds = s.rounds := rfl
@[simp] theorem State.writeCtrl_ie (s : State) (w : Word) : (s.writeCtrl w).ie = w.getLsbD 0 := rfl
@[simp] theorem State.writeCtrl_config (s : State) (w : Word) : (s.writeCtrl w).config = s.config := rfl
@[simp] theorem State.writeCtrl_phase (s : State) (w : Word) : (s.writeCtrl w).phase = s.phase := rfl
@[simp] theorem State.writeCtrl_opc (s : State) (w : Word) : (s.writeCtrl w).opc = s.opc := rfl
@[simp] theorem State.writeCtrl_c (s : State) (w : Word) : (s.writeCtrl w).c = s.c := rfl
@[simp] theorem State.writeCtrl_t (s : State) (w : Word) : (s.writeCtrl w).t = s.t := rfl
@[simp] theorem State.writeCtrl_l (s : State) (w : Word) : (s.writeCtrl w).l = s.l := rfl
@[simp] theorem State.writeCtrl_h (s : State) (w : Word) : (s.writeCtrl w).h = s.h := rfl
@[simp] theorem State.writeCtrl_cp (s : State) (w : Word) : (s.writeCtrl w).cp = s.cp := rfl
@[simp] theorem State.writeCtrl_cq (s : State) (w : Word) : (s.writeCtrl w).cq = s.cq := rfl
@[simp] theorem State.writeCtrl_env (s : State) (w : Word) : (s.writeCtrl w).env = s.env := rfl

@[simp] theorem State.withPending_a (s : State) (evs : List Event) : (s.withPending evs).a = s.a := rfl
@[simp] theorem State.withPending_b (s : State) (evs : List Event) : (s.withPending evs).b = s.b := rfl
@[simp] theorem State.withPending_m (s : State) (evs : List Event) : (s.withPending evs).m = s.m := rfl
@[simp] theorem State.withPending_r (s : State) (evs : List Event) : (s.withPending evs).r = s.r := rfl
@[simp] theorem State.withPending_kn (s : State) (evs : List Event) : (s.withPending evs).kn = s.kn := rfl
@[simp] theorem State.withPending_kp (s : State) (evs : List Event) : (s.withPending evs).kp = s.kp := rfl
@[simp] theorem State.withPending_kq (s : State) (evs : List Event) : (s.withPending evs).kq = s.kq := rfl
@[simp] theorem State.withPending_ke (s : State) (evs : List Event) : (s.withPending evs).ke = s.ke := rfl
@[simp] theorem State.withPending_kd (s : State) (evs : List Event) : (s.withPending evs).kd = s.kd := rfl
@[simp] theorem State.withPending_kbits (s : State) (evs : List Event) : (s.withPending evs).kbits = s.kbits := rfl
@[simp] theorem State.withPending_pbits (s : State) (evs : List Event) : (s.withPending evs).pbits = s.pbits := rfl
@[simp] theorem State.withPending_done (s : State) (evs : List Event) : (s.withPending evs).done = s.done := rfl
@[simp] theorem State.withPending_diag (s : State) (evs : List Event) : (s.withPending evs).diag = s.diag := rfl
@[simp] theorem State.withPending_prime (s : State) (evs : List Event) : (s.withPending evs).prime = s.prime := rfl
@[simp] theorem State.withPending_jac (s : State) (evs : List Event) : (s.withPending evs).jac = s.jac := rfl
@[simp] theorem State.withPending_err (s : State) (evs : List Event) : (s.withPending evs).err = s.err := rfl
@[simp] theorem State.withPending_rounds (s : State) (evs : List Event) : (s.withPending evs).rounds = s.rounds := rfl
@[simp] theorem State.withPending_ie (s : State) (evs : List Event) : (s.withPending evs).ie = s.ie := rfl
@[simp] theorem State.withPending_config (s : State) (evs : List Event) : (s.withPending evs).config = s.config := rfl
@[simp] theorem State.withPending_phase (s : State) (evs : List Event) : (s.withPending evs).phase = s.phase := rfl
@[simp] theorem State.withPending_opc (s : State) (evs : List Event) : (s.withPending evs).opc = s.opc := rfl
@[simp] theorem State.withPending_c (s : State) (evs : List Event) : (s.withPending evs).c = s.c := rfl
@[simp] theorem State.withPending_t (s : State) (evs : List Event) : (s.withPending evs).t = s.t := rfl
@[simp] theorem State.withPending_l (s : State) (evs : List Event) : (s.withPending evs).l = s.l := rfl
@[simp] theorem State.withPending_h (s : State) (evs : List Event) : (s.withPending evs).h = s.h := rfl
@[simp] theorem State.withPending_cp (s : State) (evs : List Event) : (s.withPending evs).cp = s.cp := rfl
@[simp] theorem State.withPending_cq (s : State) (evs : List Event) : (s.withPending evs).cq = s.cq := rfl
@[simp] theorem State.withPending_env (s : State) (evs : List Event) : (s.withPending evs).env = { s.env with pending := evs } := rfl

@[simp] theorem State.receive_a (s : State) (w : Word) : (s.receive w).a = s.a := rfl
@[simp] theorem State.receive_b (s : State) (w : Word) : (s.receive w).b = s.b := rfl
@[simp] theorem State.receive_m (s : State) (w : Word) : (s.receive w).m = s.m := rfl
@[simp] theorem State.receive_r (s : State) (w : Word) : (s.receive w).r = s.r := rfl
@[simp] theorem State.receive_kn (s : State) (w : Word) : (s.receive w).kn = s.kn := rfl
@[simp] theorem State.receive_kp (s : State) (w : Word) : (s.receive w).kp = s.kp := rfl
@[simp] theorem State.receive_kq (s : State) (w : Word) : (s.receive w).kq = s.kq := rfl
@[simp] theorem State.receive_ke (s : State) (w : Word) : (s.receive w).ke = s.ke := rfl
@[simp] theorem State.receive_kd (s : State) (w : Word) : (s.receive w).kd = s.kd := rfl
@[simp] theorem State.receive_kbits (s : State) (w : Word) : (s.receive w).kbits = s.kbits := rfl
@[simp] theorem State.receive_pbits (s : State) (w : Word) : (s.receive w).pbits = s.pbits := rfl
@[simp] theorem State.receive_done (s : State) (w : Word) : (s.receive w).done = s.done := rfl
@[simp] theorem State.receive_diag (s : State) (w : Word) : (s.receive w).diag = s.diag := rfl
@[simp] theorem State.receive_prime (s : State) (w : Word) : (s.receive w).prime = s.prime := rfl
@[simp] theorem State.receive_jac (s : State) (w : Word) : (s.receive w).jac = s.jac := rfl
@[simp] theorem State.receive_err (s : State) (w : Word) : (s.receive w).err = s.err := rfl
@[simp] theorem State.receive_rounds (s : State) (w : Word) : (s.receive w).rounds = s.rounds := rfl
@[simp] theorem State.receive_ie (s : State) (w : Word) : (s.receive w).ie = s.ie := rfl
@[simp] theorem State.receive_config (s : State) (w : Word) : (s.receive w).config = s.config := rfl
@[simp] theorem State.receive_phase (s : State) (w : Word) : (s.receive w).phase = s.phase := rfl
@[simp] theorem State.receive_opc (s : State) (w : Word) : (s.receive w).opc = s.opc := rfl
@[simp] theorem State.receive_c (s : State) (w : Word) : (s.receive w).c = s.c := rfl
@[simp] theorem State.receive_t (s : State) (w : Word) : (s.receive w).t = s.t := rfl
@[simp] theorem State.receive_l (s : State) (w : Word) : (s.receive w).l = s.l := rfl
@[simp] theorem State.receive_h (s : State) (w : Word) : (s.receive w).h = s.h := rfl
@[simp] theorem State.receive_cp (s : State) (w : Word) : (s.receive w).cp = s.cp := rfl
@[simp] theorem State.receive_cq (s : State) (w : Word) : (s.receive w).cq = s.cq := rfl
@[simp] theorem State.receive_env (s : State) (w : Word) : (s.receive w).env = { s.env with received := s.env.received ++ [w] } := rfl

@[simp] theorem State.pushAnswer_a (s : State) (v : Nat) : (s.pushAnswer v).a = s.a := rfl
@[simp] theorem State.pushAnswer_b (s : State) (v : Nat) : (s.pushAnswer v).b = s.b := rfl
@[simp] theorem State.pushAnswer_m (s : State) (v : Nat) : (s.pushAnswer v).m = s.m := rfl
@[simp] theorem State.pushAnswer_r (s : State) (v : Nat) : (s.pushAnswer v).r = s.r := rfl
@[simp] theorem State.pushAnswer_kn (s : State) (v : Nat) : (s.pushAnswer v).kn = s.kn := rfl
@[simp] theorem State.pushAnswer_kp (s : State) (v : Nat) : (s.pushAnswer v).kp = s.kp := rfl
@[simp] theorem State.pushAnswer_kq (s : State) (v : Nat) : (s.pushAnswer v).kq = s.kq := rfl
@[simp] theorem State.pushAnswer_ke (s : State) (v : Nat) : (s.pushAnswer v).ke = s.ke := rfl
@[simp] theorem State.pushAnswer_kd (s : State) (v : Nat) : (s.pushAnswer v).kd = s.kd := rfl
@[simp] theorem State.pushAnswer_kbits (s : State) (v : Nat) : (s.pushAnswer v).kbits = s.kbits := rfl
@[simp] theorem State.pushAnswer_pbits (s : State) (v : Nat) : (s.pushAnswer v).pbits = s.pbits := rfl
@[simp] theorem State.pushAnswer_done (s : State) (v : Nat) : (s.pushAnswer v).done = s.done := rfl
@[simp] theorem State.pushAnswer_diag (s : State) (v : Nat) : (s.pushAnswer v).diag = s.diag := rfl
@[simp] theorem State.pushAnswer_prime (s : State) (v : Nat) : (s.pushAnswer v).prime = s.prime := rfl
@[simp] theorem State.pushAnswer_jac (s : State) (v : Nat) : (s.pushAnswer v).jac = s.jac := rfl
@[simp] theorem State.pushAnswer_err (s : State) (v : Nat) : (s.pushAnswer v).err = s.err := rfl
@[simp] theorem State.pushAnswer_rounds (s : State) (v : Nat) : (s.pushAnswer v).rounds = s.rounds := rfl
@[simp] theorem State.pushAnswer_ie (s : State) (v : Nat) : (s.pushAnswer v).ie = s.ie := rfl
@[simp] theorem State.pushAnswer_config (s : State) (v : Nat) : (s.pushAnswer v).config = s.config := rfl
@[simp] theorem State.pushAnswer_phase (s : State) (v : Nat) : (s.pushAnswer v).phase = s.phase := rfl
@[simp] theorem State.pushAnswer_opc (s : State) (v : Nat) : (s.pushAnswer v).opc = s.opc := rfl
@[simp] theorem State.pushAnswer_c (s : State) (v : Nat) : (s.pushAnswer v).c = s.c := rfl
@[simp] theorem State.pushAnswer_t (s : State) (v : Nat) : (s.pushAnswer v).t = s.t := rfl
@[simp] theorem State.pushAnswer_l (s : State) (v : Nat) : (s.pushAnswer v).l = s.l := rfl
@[simp] theorem State.pushAnswer_h (s : State) (v : Nat) : (s.pushAnswer v).h = s.h := rfl
@[simp] theorem State.pushAnswer_cp (s : State) (v : Nat) : (s.pushAnswer v).cp = s.cp := rfl
@[simp] theorem State.pushAnswer_cq (s : State) (v : Nat) : (s.pushAnswer v).cq = s.cq := rfl
@[simp] theorem State.pushAnswer_env (s : State) (v : Nat) : (s.pushAnswer v).env = { s.env with answers := s.env.answers ++ [v] } := rfl

@[simp] theorem State.setSilent_a (s : State) (b : Bool) : (s.setSilent b).a = s.a := rfl
@[simp] theorem State.setSilent_b (s : State) (b : Bool) : (s.setSilent b).b = s.b := rfl
@[simp] theorem State.setSilent_m (s : State) (b : Bool) : (s.setSilent b).m = s.m := rfl
@[simp] theorem State.setSilent_r (s : State) (b : Bool) : (s.setSilent b).r = s.r := rfl
@[simp] theorem State.setSilent_kn (s : State) (b : Bool) : (s.setSilent b).kn = s.kn := rfl
@[simp] theorem State.setSilent_kp (s : State) (b : Bool) : (s.setSilent b).kp = s.kp := rfl
@[simp] theorem State.setSilent_kq (s : State) (b : Bool) : (s.setSilent b).kq = s.kq := rfl
@[simp] theorem State.setSilent_ke (s : State) (b : Bool) : (s.setSilent b).ke = s.ke := rfl
@[simp] theorem State.setSilent_kd (s : State) (b : Bool) : (s.setSilent b).kd = s.kd := rfl
@[simp] theorem State.setSilent_kbits (s : State) (b : Bool) : (s.setSilent b).kbits = s.kbits := rfl
@[simp] theorem State.setSilent_pbits (s : State) (b : Bool) : (s.setSilent b).pbits = s.pbits := rfl
@[simp] theorem State.setSilent_done (s : State) (b : Bool) : (s.setSilent b).done = s.done := rfl
@[simp] theorem State.setSilent_diag (s : State) (b : Bool) : (s.setSilent b).diag = s.diag := rfl
@[simp] theorem State.setSilent_prime (s : State) (b : Bool) : (s.setSilent b).prime = s.prime := rfl
@[simp] theorem State.setSilent_jac (s : State) (b : Bool) : (s.setSilent b).jac = s.jac := rfl
@[simp] theorem State.setSilent_err (s : State) (b : Bool) : (s.setSilent b).err = s.err := rfl
@[simp] theorem State.setSilent_rounds (s : State) (b : Bool) : (s.setSilent b).rounds = s.rounds := rfl
@[simp] theorem State.setSilent_ie (s : State) (b : Bool) : (s.setSilent b).ie = s.ie := rfl
@[simp] theorem State.setSilent_config (s : State) (b : Bool) : (s.setSilent b).config = s.config := rfl
@[simp] theorem State.setSilent_phase (s : State) (b : Bool) : (s.setSilent b).phase = s.phase := rfl
@[simp] theorem State.setSilent_opc (s : State) (b : Bool) : (s.setSilent b).opc = s.opc := rfl
@[simp] theorem State.setSilent_c (s : State) (b : Bool) : (s.setSilent b).c = s.c := rfl
@[simp] theorem State.setSilent_t (s : State) (b : Bool) : (s.setSilent b).t = s.t := rfl
@[simp] theorem State.setSilent_l (s : State) (b : Bool) : (s.setSilent b).l = s.l := rfl
@[simp] theorem State.setSilent_h (s : State) (b : Bool) : (s.setSilent b).h = s.h := rfl
@[simp] theorem State.setSilent_cp (s : State) (b : Bool) : (s.setSilent b).cp = s.cp := rfl
@[simp] theorem State.setSilent_cq (s : State) (b : Bool) : (s.setSilent b).cq = s.cq := rfl
@[simp] theorem State.setSilent_env (s : State) (b : Bool) : (s.setSilent b).env = { s.env with rngSilent := b } := rfl

@[simp] theorem State.setResetIn_a (s : State) (b : Bool) : (s.setResetIn b).a = s.a := rfl
@[simp] theorem State.setResetIn_b (s : State) (b : Bool) : (s.setResetIn b).b = s.b := rfl
@[simp] theorem State.setResetIn_m (s : State) (b : Bool) : (s.setResetIn b).m = s.m := rfl
@[simp] theorem State.setResetIn_r (s : State) (b : Bool) : (s.setResetIn b).r = s.r := rfl
@[simp] theorem State.setResetIn_kn (s : State) (b : Bool) : (s.setResetIn b).kn = s.kn := rfl
@[simp] theorem State.setResetIn_kp (s : State) (b : Bool) : (s.setResetIn b).kp = s.kp := rfl
@[simp] theorem State.setResetIn_kq (s : State) (b : Bool) : (s.setResetIn b).kq = s.kq := rfl
@[simp] theorem State.setResetIn_ke (s : State) (b : Bool) : (s.setResetIn b).ke = s.ke := rfl
@[simp] theorem State.setResetIn_kd (s : State) (b : Bool) : (s.setResetIn b).kd = s.kd := rfl
@[simp] theorem State.setResetIn_kbits (s : State) (b : Bool) : (s.setResetIn b).kbits = s.kbits := rfl
@[simp] theorem State.setResetIn_pbits (s : State) (b : Bool) : (s.setResetIn b).pbits = s.pbits := rfl
@[simp] theorem State.setResetIn_done (s : State) (b : Bool) : (s.setResetIn b).done = s.done := rfl
@[simp] theorem State.setResetIn_diag (s : State) (b : Bool) : (s.setResetIn b).diag = s.diag := rfl
@[simp] theorem State.setResetIn_prime (s : State) (b : Bool) : (s.setResetIn b).prime = s.prime := rfl
@[simp] theorem State.setResetIn_jac (s : State) (b : Bool) : (s.setResetIn b).jac = s.jac := rfl
@[simp] theorem State.setResetIn_err (s : State) (b : Bool) : (s.setResetIn b).err = s.err := rfl
@[simp] theorem State.setResetIn_rounds (s : State) (b : Bool) : (s.setResetIn b).rounds = s.rounds := rfl
@[simp] theorem State.setResetIn_ie (s : State) (b : Bool) : (s.setResetIn b).ie = s.ie := rfl
@[simp] theorem State.setResetIn_config (s : State) (b : Bool) : (s.setResetIn b).config = s.config := rfl
@[simp] theorem State.setResetIn_phase (s : State) (b : Bool) : (s.setResetIn b).phase = s.phase := rfl
@[simp] theorem State.setResetIn_opc (s : State) (b : Bool) : (s.setResetIn b).opc = s.opc := rfl
@[simp] theorem State.setResetIn_c (s : State) (b : Bool) : (s.setResetIn b).c = s.c := rfl
@[simp] theorem State.setResetIn_t (s : State) (b : Bool) : (s.setResetIn b).t = s.t := rfl
@[simp] theorem State.setResetIn_l (s : State) (b : Bool) : (s.setResetIn b).l = s.l := rfl
@[simp] theorem State.setResetIn_h (s : State) (b : Bool) : (s.setResetIn b).h = s.h := rfl
@[simp] theorem State.setResetIn_cp (s : State) (b : Bool) : (s.setResetIn b).cp = s.cp := rfl
@[simp] theorem State.setResetIn_cq (s : State) (b : Bool) : (s.setResetIn b).cq = s.cq := rfl
@[simp] theorem State.setResetIn_env (s : State) (b : Bool) : (s.setResetIn b).env = { s.env with resetIn := b } := rfl

@[simp] theorem State.resetBlock_a (s : State) : (s.resetBlock).a = 0 := rfl
@[simp] theorem State.resetBlock_b (s : State) : (s.resetBlock).b = 0 := rfl
@[simp] theorem State.resetBlock_m (s : State) : (s.resetBlock).m = 0 := rfl
@[simp] theorem State.resetBlock_r (s : State) : (s.resetBlock).r = 0 := rfl
@[simp] theorem State.resetBlock_kn (s : State) : (s.resetBlock).kn = 0 := rfl
@[simp] theorem State.resetBlock_kp (s : State) : (s.resetBlock).kp = 0 := rfl
@[simp] theorem State.resetBlock_kq (s : State) : (s.resetBlock).kq = 0 := rfl
@[simp] theorem State.resetBlock_ke (s : State) : (s.resetBlock).ke = 0 := rfl
@[simp] theorem State.resetBlock_kd (s : State) : (s.resetBlock).kd = 0 := rfl
@[simp] theorem State.resetBlock_kbits (s : State) : (s.resetBlock).kbits = 0 := rfl
@[simp] theorem State.resetBlock_pbits (s : State) : (s.resetBlock).pbits = 0 := rfl
@[simp] theorem State.resetBlock_done (s : State) : (s.resetBlock).done = false := rfl
@[simp] theorem State.resetBlock_diag (s : State) : (s.resetBlock).diag = false := rfl
@[simp] theorem State.resetBlock_prime (s : State) : (s.resetBlock).prime = false := rfl
@[simp] theorem State.resetBlock_jac (s : State) : (s.resetBlock).jac = .zero := rfl
@[simp] theorem State.resetBlock_err (s : State) : (s.resetBlock).err = .none := rfl
@[simp] theorem State.resetBlock_rounds (s : State) : (s.resetBlock).rounds = 0 := rfl
@[simp] theorem State.resetBlock_ie (s : State) : (s.resetBlock).ie = false := rfl
@[simp] theorem State.resetBlock_config (s : State) : (s.resetBlock).config = s.config := rfl
@[simp] theorem State.resetBlock_phase (s : State) : (s.resetBlock).phase = .idle := rfl
@[simp] theorem State.resetBlock_opc (s : State) : (s.resetBlock).opc = 0 := rfl
@[simp] theorem State.resetBlock_c (s : State) : (s.resetBlock).c = 0 := rfl
@[simp] theorem State.resetBlock_t (s : State) : (s.resetBlock).t = 0 := rfl
@[simp] theorem State.resetBlock_l (s : State) : (s.resetBlock).l = 0 := rfl
@[simp] theorem State.resetBlock_h (s : State) : (s.resetBlock).h = 0 := rfl
@[simp] theorem State.resetBlock_cp (s : State) : (s.resetBlock).cp = 0 := rfl
@[simp] theorem State.resetBlock_cq (s : State) : (s.resetBlock).cq = 0 := rfl
@[simp] theorem State.resetBlock_env (s : State) : (s.resetBlock).env = { s.env with answers := [] } := rfl

@[simp] theorem State.setBig_r (s : State) (x : BigReg) (v : Nat) : (s.setBig x v).r = s.r := by cases x <;> rfl
@[simp] theorem State.setBig_kn (s : State) (x : BigReg) (v : Nat) : (s.setBig x v).kn = s.kn := by cases x <;> rfl
@[simp] theorem State.setBig_kp (s : State) (x : BigReg) (v : Nat) : (s.setBig x v).kp = s.kp := by cases x <;> rfl
@[simp] theorem State.setBig_kq (s : State) (x : BigReg) (v : Nat) : (s.setBig x v).kq = s.kq := by cases x <;> rfl
@[simp] theorem State.setBig_ke (s : State) (x : BigReg) (v : Nat) : (s.setBig x v).ke = s.ke := by cases x <;> rfl
@[simp] theorem State.setBig_kd (s : State) (x : BigReg) (v : Nat) : (s.setBig x v).kd = s.kd := by cases x <;> rfl
@[simp] theorem State.setBig_kbits (s : State) (x : BigReg) (v : Nat) : (s.setBig x v).kbits = s.kbits := by cases x <;> rfl
@[simp] theorem State.setBig_pbits (s : State) (x : BigReg) (v : Nat) : (s.setBig x v).pbits = s.pbits := by cases x <;> rfl
@[simp] theorem State.setBig_done (s : State) (x : BigReg) (v : Nat) : (s.setBig x v).done = s.done := by cases x <;> rfl
@[simp] theorem State.setBig_diag (s : State) (x : BigReg) (v : Nat) : (s.setBig x v).diag = s.diag := by cases x <;> rfl
@[simp] theorem State.setBig_prime (s : State) (x : BigReg) (v : Nat) : (s.setBig x v).prime = s.prime := by cases x <;> rfl
@[simp] theorem State.setBig_jac (s : State) (x : BigReg) (v : Nat) : (s.setBig x v).jac = s.jac := by cases x <;> rfl
@[simp] theorem State.setBig_err (s : State) (x : BigReg) (v : Nat) : (s.setBig x v).err = s.err := by cases x <;> rfl
@[simp] theorem State.setBig_rounds (s : State) (x : BigReg) (v : Nat) : (s.setBig x v).rounds = s.rounds := by cases x <;> rfl
@[simp] theorem State.setBig_ie (s : State) (x : BigReg) (v : Nat) : (s.setBig x v).ie = s.ie := by cases x <;> rfl
@[simp] theorem State.setBig_config (s : State) (x : BigReg) (v : Nat) : (s.setBig x v).config = s.config := by cases x <;> rfl
@[simp] theorem State.setBig_phase (s : State) (x : BigReg) (v : Nat) : (s.setBig x v).phase = s.phase := by cases x <;> rfl
@[simp] theorem State.setBig_opc (s : State) (x : BigReg) (v : Nat) : (s.setBig x v).opc = s.opc := by cases x <;> rfl
@[simp] theorem State.setBig_c (s : State) (x : BigReg) (v : Nat) : (s.setBig x v).c = s.c := by cases x <;> rfl
@[simp] theorem State.setBig_t (s : State) (x : BigReg) (v : Nat) : (s.setBig x v).t = s.t := by cases x <;> rfl
@[simp] theorem State.setBig_l (s : State) (x : BigReg) (v : Nat) : (s.setBig x v).l = s.l := by cases x <;> rfl
@[simp] theorem State.setBig_h (s : State) (x : BigReg) (v : Nat) : (s.setBig x v).h = s.h := by cases x <;> rfl
@[simp] theorem State.setBig_cp (s : State) (x : BigReg) (v : Nat) : (s.setBig x v).cp = s.cp := by cases x <;> rfl
@[simp] theorem State.setBig_cq (s : State) (x : BigReg) (v : Nat) : (s.setBig x v).cq = s.cq := by cases x <;> rfl
@[simp] theorem State.setBig_env (s : State) (x : BigReg) (v : Nat) : (s.setBig x v).env = s.env := by cases x <;> rfl

@[simp] theorem State.setBig_kmax (s : State) (x : BigReg) (v : Nat) : (s.setBig x v).kmax = s.kmax := by
  simp [State.kmax]

@[simp] theorem State.begin_kmax (s : State) (op : BitVec 4) : (s.begin op).kmax = s.kmax := rfl
@[simp] theorem State.complete_kmax (s : State) (code : ErrCode) : (s.complete code).kmax = s.kmax := rfl
@[simp] theorem State.raise_kmax (s : State) (code : ErrCode) : (s.raise code).kmax = s.kmax := rfl
@[simp] theorem State.enter_kmax (s : State) (p : Phase) : (s.enter p).kmax = s.kmax := rfl
@[simp] theorem State.verdict_kmax (s : State) (p : Bool) : (s.verdict p).kmax = s.kmax := rfl
@[simp] theorem State.setJac_kmax (s : State) (j : Sym) : (s.setJac j).kmax = s.kmax := rfl
@[simp] theorem State.setPrime_kmax (s : State) (p : Bool) : (s.setPrime p).kmax = s.kmax := rfl
@[simp] theorem State.noteSelfCheck_kmax (s : State) (ok : Bool) : (s.noteSelfCheck ok).kmax = s.kmax := rfl
@[simp] theorem State.project_kmax (s : State) (e : Nat) : (s.project e).kmax = s.kmax := rfl
@[simp] theorem State.writeStatus_kmax (s : State) (w : Word) : (s.writeStatus w).kmax = s.kmax := rfl
@[simp] theorem State.writeCtrl_kmax (s : State) (w : Word) : (s.writeCtrl w).kmax = s.kmax := rfl
@[simp] theorem State.withPending_kmax (s : State) (evs : List Event) : (s.withPending evs).kmax = s.kmax := rfl
@[simp] theorem State.receive_kmax (s : State) (w : Word) : (s.receive w).kmax = s.kmax := rfl
@[simp] theorem State.pushAnswer_kmax (s : State) (v : Nat) : (s.pushAnswer v).kmax = s.kmax := rfl
@[simp] theorem State.setSilent_kmax (s : State) (b : Bool) : (s.setSilent b).kmax = s.kmax := rfl
@[simp] theorem State.setResetIn_kmax (s : State) (b : Bool) : (s.setResetIn b).kmax = s.kmax := rfl
@[simp] theorem State.resetBlock_kmax (s : State) : (s.resetBlock).kmax = s.kmax := rfl

@[simp] theorem State.windowWrite_kmax (s : State) (x : BigReg) (j : Nat) (w : Word) :
    (s.windowWrite x j w).kmax = s.kmax := by
  unfold State.windowWrite; split <;> simp

end Sys2Proof.Machine
end

