-- ==== Sys2Proof/Laws/Ops.lean ====
section
/-! SUPPORT. What each shared operation can do, said once: the shape of a command (`transact`), draws, the
primality test, KEYGEN's candidates, and the words of a window. Callers cite these and do not unfold. -/

namespace Sys2Proof.Machine

open Host (Outcome)

/-! ### The shape of a command -/

section Transact
variable {i : Instr} {refuse : Bool} {accept : State → State}
  {advance : State → Outcome State Fault Refusal} {s t : State}

theorem transact_refused (h : s.phase = .idle) (hr : refuse = true) :
    transact i refuse accept advance s = .next ((s.begin i.opcode).raise .invalidArgument) := by
  simp [transact, h, hr]

theorem transact_accepted (h : s.phase = .idle) (hr : refuse = false) :
    transact i refuse accept advance s = .next (accept (s.begin i.opcode)) := by
  simp [transact, h, hr]

theorem transact_advance (h : s.current = some i) :
    transact i refuse accept advance s = advance s := by
  have hp : s.phase ≠ .idle := by intro hp; simp [State.current, hp] at h
  simp [transact, hp, h]

theorem transact_ignored (h : s.phase ≠ .idle) (hc : s.current ≠ some i) :
    transact i refuse accept advance s = .next s := by
  simp [transact, h, hc]

/-- Everything a command can do in one transition: refused, accepted, advanced, or ignored. -/
theorem transact_next (h : transact i refuse accept advance s = .next t) :
    (s.phase = .idle ∧ refuse = true ∧ t = (s.begin i.opcode).raise .invalidArgument) ∨
    (s.phase = .idle ∧ refuse = false ∧ t = accept (s.begin i.opcode)) ∨
    (s.phase ≠ .idle ∧ s.current = some i ∧ advance s = .next t) ∨
    (s.phase ≠ .idle ∧ s.current ≠ some i ∧ t = s) := by
  unfold transact at h
  split at h
  · rename_i hp
    cases refuse <;> simp_all
  · split at h <;> simp_all

end Transact

/-- In the EXEC phase the command in progress is the one OPC names (R25). -/
theorem State.current_of_exec {s : State} (h : s.phase = .exec) : s.current = oneStepCommand s.opc := by
  simp [State.current, h]

/-! ### Draws -/

/-- Only the answers waiting and the index of the next free answer differ (R92). -/
def Env.sameButDraws (e e' : Env) : Prop :=
  e'.pending = e.pending ∧ e'.received = e.received ∧ e'.rngSilent = e.rngSilent ∧ e'.resetIn = e.resetIn

theorem Env.sameButDraws_refl (e : Env) : e.sameButDraws e := ⟨rfl, rfl, rfl, rfl⟩

theorem Env.sameButDraws_trans {e f g : Env} (h : e.sameButDraws f) (k : f.sameButDraws g) : e.sameButDraws g :=
  ⟨k.1.trans h.1, k.2.1.trans h.2.1, k.2.2.1.trans h.2.2.1, k.2.2.2.trans h.2.2.2⟩

theorem Env.eq_of_sameButDraws {e e' : Env} (h : e.sameButDraws e') :
    e' = { e with answers := e'.answers, drawn := e'.drawn } := by
  obtain ⟨h1, h2, h3, h4⟩ := h
  cases e; cases e'; simp_all

/-- R92: an answer lies in the range of its request. -/
theorem draw_ok {q : Request} {e e' : Env} {v : Nat} (h : draw q e = .ok (v, e')) :
    q.low ≤ v ∧ v ≤ q.high ∧ e.sameButDraws e' := by
  unfold draw at h
  split at h
  · cases h
  · split at h
    · split at h
      · cases h; exact ⟨by tauto, by tauto, rfl, rfl, rfl, rfl⟩
      · cases h
    · split at h
      · cases h
      · cases h
        have := Nat.mod_lt (Config.rng e.drawn) (show 0 < q.high - q.low + 1 by omega)
        exact ⟨by omega, by omega, rfl, rfl, rfl, rfl⟩

/-- A waiting answer in the range of the request is the answer. -/
theorem draw_waiting {q : Request} {e : Env} {v : Nat} {rest : List Nat} (ha : e.answers = v :: rest)
    (hl : q.low ≤ v) (hh : v ≤ q.high) : draw q e = .ok (v, { e with answers := rest }) := by
  unfold draw
  rw [if_neg (by omega), ha]
  simp [hl, hh]

/-- An environment that answers gives a free value in the range of the request. -/
theorem draw_free {q : Request} {e : Env} (ha : e.answers = []) (hs : e.rngSilent = false)
    (hq : q.low ≤ q.high) :
    draw q e = .ok (q.low + Config.rng e.drawn % (q.high - q.low + 1), { e with drawn := e.drawn + 1 }) := by
  unfold draw
  rw [if_neg (by omega), ha, hs]
  rfl

theorem draw_silent {q : Request} {e : Env} (ha : e.answers = []) (hs : e.rngSilent = true) :
    draw q e = .error .noAnswer := by
  unfold draw
  split
  · rfl
  · simp [ha]

theorem draw_outOfRange {q : Request} {e : Env} {v : Nat} {rest : List Nat} (ha : e.answers = v :: rest)
    (hq : q.low ≤ q.high) (hv : v < q.low ∨ q.high < v) : draw q e = .error .outOfRange := by
  unfold draw
  rw [if_neg (by omega), ha]
  simp only [ite_eq_right_iff]
  omega

@[simp] theorem Request.low_bits (n : Nat) : (Request.bits n).low = 2 ^ (n - 1) := rfl
@[simp] theorem Request.high_bits (n : Nat) : (Request.bits n).high = 2 ^ n - 1 := rfl
@[simp] theorem Request.low_range (lo hi : Nat) : (Request.range lo hi).low = lo := rfl
@[simp] theorem Request.high_range (lo hi : Nat) : (Request.range lo hi).high = hi := rfl

/-- R92: an answer to `Bits(n)` has exactly n bits. -/
theorem draw_bits {n : Nat} {e e' : Env} {v : Nat} (h : draw (.bits n) e = .ok (v, e')) :
    bitlen v = n ∧ v < 2 ^ n := by
  obtain ⟨hl, hh, -⟩ := draw_ok h
  have := Nat.two_pow_pos n
  simp only [Request.low_bits, Request.high_bits] at hl hh
  exact ⟨bitlen_eq_of_bounds hl (by omega), by omega⟩

/-- A drawing step goes on, waits unchanged, or is refused. -/
theorem settle_next {s t : State} {r : Except DrawStop State} (h : settle s r = .next t) :
    r = .ok t ∨ (r = .error .noAnswer ∧ t = s) := by
  unfold settle at h
  split at h <;> simp_all

@[simp] theorem settle_ok (s t : State) : settle s (.ok t) = .next t := rfl
@[simp] theorem settle_noAnswer (s : State) : settle s (.error .noAnswer) = .next s := rfl
@[simp] theorem settle_outOfRange (s : State) :
    settle s (.error .outOfRange) = .refused .rngAnswerOutOfRange := rfl

theorem settle_ne_fault (s : State) (r : Except DrawStop State) (f : Fault) : settle s r ≠ .fault f := by
  unfold settle
  split <;> simp

/-! ### The primality test -/

theorem pTrials_env {c : Nat} : ∀ {r : Nat} {e e' : Env} {ok : Bool},
    pTrials c r e = .ok (ok, e') → e.sameButDraws e'
  | 0, e, e', ok, h => by cases h; exact e.sameButDraws_refl
  | r + 1, e, e', ok, h => by
    unfold pTrials at h
    split at h
    · rename_i w e1 hd
      have h1 := (draw_ok hd).2.2
      split at h
      · cases h; exact h1
      · exact Env.sameButDraws_trans h1 (pTrials_env h)
    · cases h

/-- R66: witnesses in range that do not match are taken one by one, and the test goes on with the rounds left. -/
theorem pTrials_append {c r : Nat} : ∀ {ws rest : List Nat} {e : Env}, e.answers = ws ++ rest →
    (∀ w ∈ ws, 2 ≤ w ∧ w ≤ c - 1 ∧ trial c w = false) →
    pTrials c (ws.length + r) e = pTrials c r { e with answers := rest }
  | [], rest, e, ha, _ => by
    obtain rfl : e.answers = rest := ha
    rw [List.length_nil, Nat.zero_add]
  | w :: ws, rest, e, ha, hw => by
    obtain ⟨hl, hh, ht⟩ := hw w (by simp)
    rw [List.length_cons, Nat.add_right_comm, pTrials,
      draw_waiting (q := .range 2 (c - 1)) (rest := ws ++ rest) ha hl hh]
    simp only [ht, Bool.false_eq_true, if_false]
    exact pTrials_append rfl fun v hv => hw v (by simp [hv])

/-- R92: a draw of a trial that gives no value ends the test with the same reason. -/
theorem pTrials_error {c r : Nat} {e : Env} {x : DrawStop} (h : draw (.range 2 (c - 1)) e = .error x) :
    pTrials c (r + 1) e = .error x := by
  rw [pTrials, h]

/-- R66: for odd c >= 3 the test is its trials. -/
theorem pTest_of_odd {c r : Nat} {e : Env} (hc : 3 ≤ c) (ho : c % 2 = 1) : pTest c r e = pTrials c r e := by
  rw [pTest, if_neg (by omega), if_neg (by omega), if_neg (by omega)]

/-- R66: what `PTest` accepts is 2 or odd and at least 3. -/
theorem pTest_ok {c r : Nat} {e e' : Env} {ok : Bool} (h : pTest c r e = .ok (ok, e')) :
    e.sameButDraws e' ∧ (ok = true → c = 2 ∨ 3 ≤ c ∧ c % 2 = 1) := by
  unfold pTest at h
  split at h
  · cases h; exact ⟨e.sameButDraws_refl, by simp⟩
  · split at h
    · cases h; exact ⟨e.sameButDraws_refl, fun _ => Or.inl ‹_›⟩
    · split at h
      · cases h; exact ⟨e.sameButDraws_refl, by simp⟩
      · exact ⟨pTrials_env h, fun _ => Or.inr (by omega)⟩

/-- R73, R74: a candidate has exactly H bits, and an accepted one is 2 or odd and at least 3. -/
theorem candidate_ok {s : State} {c : Nat} {ok : Bool} {e : Env} (h : candidate s = .ok ((c, ok), e)) :
    bitlen c = s.h.toNat ∧ c < 2 ^ s.h.toNat ∧ s.env.sameButDraws e ∧
      (ok = true → c = 2 ∨ 3 ≤ c ∧ c % 2 = 1) := by
  unfold candidate at h
  split at h
  · cases h
  · rename_i c1 e1 hd
    split at h
    · cases h
    · rename_i ok1 e2 hp
      cases h
      exact ⟨(draw_bits hd).1, (draw_bits hd).2, Env.sameButDraws_trans (draw_ok hd).2.2 (pTest_ok hp).1,
        (pTest_ok hp).2⟩

/-! ### What the steps of PRIMETEST and KEYGEN can do -/

/-- R69: the trial's outcomes, and the wait for an answer. -/
theorem ptTrialStep_next {s t : State} (h : ptTrialStep s = .next t) :
    t = s ∨ ∃ w e, draw (.range 2 (s.c - 1)) s.env = .ok (w, e) ∧
      ((trial s.c w = true ∧ t = { s with env := e }.verdict true) ∨
       (trial s.c w = false ∧ s.t - 1 = 0 ∧ t = { s with env := e, t := s.t - 1 }.verdict false) ∨
       (trial s.c w = false ∧ s.t - 1 ≠ 0 ∧ t = { s with env := e, t := s.t - 1 })) := by
  rcases settle_next h with h | ⟨-, rfl⟩
  · split at h
    · rename_i w e hd
      refine Or.inr ⟨w, e, hd, ?_⟩
      simp only [Except.ok.injEq] at h
      split at h
      · exact Or.inl ⟨‹_›, h.symm⟩
      · rename_i hf
        split at h
        · exact Or.inr (Or.inl ⟨by simpa using hf, ‹_›, h.symm⟩)
        · exact Or.inr (Or.inr ⟨by simpa using hf, ‹_›, h.symm⟩)
    · cases h
  · exact Or.inl rfl

/-- R72: the shape check passes, fails, or waits for an answer. -/
theorem kgShapeStep_next {s t : State} (h : kgShapeStep s = .next t) :
    t = s ∨ ∃ e, s.env.sameButDraws e ∧
      (t = { s with env := e, phase := .kgP } ∨ t = { s with env := e, phase := .kgShape }) := by
  rcases settle_next h with h | ⟨-, rfl⟩
  · split at h
    · cases h
    · rename_i x e1 h1
      split at h
      · cases h
      · rename_i y e2 h2
        simp only [Except.ok.injEq] at h
        refine Or.inr ⟨e2, Env.sameButDraws_trans (draw_ok h1).2.2 (draw_ok h2).2.2, ?_⟩
        subst h
        by_cases hb : bitlen (x * y) = s.l.toNat
        · exact Or.inl (by simp [hb, State.enter])
        · exact Or.inr (by simp [hb, State.enter])
  · exact Or.inl rfl

/-- R73: p is accepted, the candidate is rejected, or the step waits for an answer. -/
theorem kgPStep_next {s t : State} (h : kgPStep s = .next t) :
    t = s ∨ ∃ c e, s.env.sameButDraws e ∧
      ((bitlen c = s.h.toNat ∧ c < 2 ^ s.h.toNat ∧ (c = 2 ∨ 3 ≤ c ∧ c % 2 = 1) ∧
        t = { s with env := e, cp := c, phase := .kgQ }) ∨ t = { s with env := e }) := by
  rcases settle_next h with h | ⟨-, rfl⟩
  · split at h
    · cases h
    · rename_i c ok e hc
      obtain ⟨hb, hlt, he, hok⟩ := candidate_ok hc
      refine Or.inr ⟨c, e, he, ?_⟩
      cases ok
      · simp only [Except.ok.injEq] at h; exact Or.inr h.symm
      · simp only [Except.ok.injEq] at h; exact Or.inl ⟨hb, hlt, hok rfl, h.symm⟩
  · exact Or.inl rfl

/-- R74: q is accepted, the candidate is rejected, or the step waits for an answer. -/
theorem kgQStep_next {s t : State} (h : kgQStep s = .next t) :
    t = s ∨ ∃ c e, s.env.sameButDraws e ∧
      ((bitlen c = s.h.toNat ∧ c < 2 ^ s.h.toNat ∧ (c = 2 ∨ 3 ≤ c ∧ c % 2 = 1) ∧
        t = { s with env := e, cq := c, phase := .kgCheck }) ∨ t = { s with env := e }) := by
  rcases settle_next h with h | ⟨-, rfl⟩
  · split at h
    · cases h
    · rename_i c ok e hc
      obtain ⟨hb, hlt, he, hok⟩ := candidate_ok hc
      refine Or.inr ⟨c, e, he, ?_⟩
      cases ok
      · simp only [Except.ok.injEq] at h; exact Or.inr h.symm
      · simp only [Except.ok.injEq] at h; exact Or.inl ⟨hb, hlt, hok rfl, h.symm⟩
  · exact Or.inl rfl

/-- R76, R77: the derivation fails, or it gives e, an inverse of e below φ, and the self-check holds when φ is
above 1. -/
theorem derive_cases (p q : Nat) :
    (Nat.gcd 65537 (totient p q) ≠ 1 ∧ derive p q = none) ∨
    (Nat.gcd 65537 (totient p q) = 1 ∧ ∃ d, d < totient p q ∧ 65537 * d % totient p q = 1 % totient p q ∧
      derive p q = some (65537, d, decide (65537 * d % totient p q = 1))) := by
  by_cases h : Nat.gcd 65537 (totient p q) = 1
  · refine Or.inr ⟨h, inv 65537 (totient p q), ?_⟩
    have hpos : 0 < totient p q := by
      rcases Nat.eq_zero_or_pos (totient p q) with h0 | h0
      · rw [h0] at h; simp at h
      · exact h0
    exact ⟨(inv_spec hpos h).1, (inv_spec hpos h).2, by unfold derive eFixed; rw [if_pos h]⟩
  · exact Or.inl ⟨h, by unfold derive eFixed; rw [if_neg h]⟩

/-! ### The words of a window -/

/-- R34: bit k of word j is bit `32*j + k` of the value. -/
theorem wordOf_getLsbD (x j k : Nat) :
    (wordOf x j).getLsbD k = (decide (k < 32) && x.testBit (32 * j + k)) := by
  simp [wordOf, BitVec.getLsbD_ofNat, Nat.testBit_div_two_pow, Nat.add_comm]

/-- R34: writing word j replaces exactly bits `32*j .. 32*j+31`. -/
theorem putWord_testBit (x j : Nat) (w : Word) (k : Nat) :
    (putWord x j w).testBit k =
      if 32 * j ≤ k ∧ k < 32 * j + 32 then w.getLsbD (k - 32 * j) else x.testBit k := by
  have hw : w.toNat < 2 ^ 32 := w.isLt
  have hlow : x % 2 ^ (32 * j) < 2 ^ (32 * j) := Nat.mod_lt _ (Nat.two_pow_pos _)
  have hshape : putWord x j w =
      2 ^ (32 * j) * (2 ^ 32 * (x / 2 ^ (32 * (j + 1))) + w.toNat) + x % 2 ^ (32 * j) := by
    unfold putWord
    rw [show 32 * (j + 1) = 32 * j + 32 by ring, pow_add]
    ring
  rw [hshape, Nat.testBit_two_pow_mul_add _ hlow]
  split
  · rename_i hk
    rw [if_neg (by omega), Nat.testBit_mod_two_pow, decide_eq_true hk, Bool.true_and]
  · rename_i hk
    rw [Nat.testBit_two_pow_mul_add _ hw]
    split
    · rename_i h2
      rw [if_pos (by omega), BitVec.getLsbD]
    · rename_i h2
      rw [if_neg (by omega), Nat.testBit_div_two_pow]
      congr 1
      omega

theorem lt_two_pow_iff_testBit {x n : Nat} : x < 2 ^ n ↔ ∀ k, n ≤ k → x.testBit k = false :=
  ⟨fun h _ hk => Nat.testBit_lt_two_pow (h.trans_le (Nat.pow_le_pow_right (by norm_num) hk)),
    Nat.lt_pow_two_of_testBit x⟩

/-- R7, R34: writing an existing word keeps the value in its width. -/
theorem putWord_lt {x j n : Nat} (w : Word) (hx : x < 2 ^ n) (hj : 32 * j + 32 ≤ n) : putWord x j w < 2 ^ n := by
  rw [lt_two_pow_iff_testBit] at *
  intro k hk
  rw [putWord_testBit, if_neg (by omega)]
  exact hx k hk

end Sys2Proof.Machine
end

