-- ==== Sys2Proof/Laws/Commands.lean ====
section
/-! SUPPORT. Every arm of `exec` is `transact` at the command's own check, acceptance and step, so what is proved of
`transact` holds of every command; and what one transition of a command can do. -/

namespace Sys2Proof.Machine

open Host (Outcome)

/-- The argument check of a command (the second table of R48). -/
def refusedBy (i : Instr) (s : State) : Bool :=
  match i with
  | .montmul => montmulRefused s
  | .modexp => modexpRefused s
  | .gcd => gcdRefused s
  | .jacobi => jacobiRefused s
  | .modinv => modinvRefused s
  | .primetest => primetestRefused s
  | .keygen imm16 => keygenRefused imm16 s
  | .ldkeyPub => ldkeyPubRefused s
  | .ldkeyPriv => ldkeyPrivRefused s

/-- No check looks at the environment. -/
@[simp] theorem refusedBy_env (i : Instr) (s : State) (e : Env) :
    refusedBy i { s with env := e } = refusedBy i s := by cases i <;> rfl

@[simp] theorem refusedBy_withPending (i : Instr) (s : State) (evs : List Event) :
    refusedBy i (s.withPending evs) = refusedBy i s := by cases i <;> rfl

section Checks
variable (s : State)

theorem montmulRefused_iff :
    montmulRefused s = true ↔ s.m = 0 ∨ s.m % 2 = 0 ∨ s.m ≤ s.a ∨ s.m ≤ s.b := by
  simp [montmulRefused, or_assoc]

theorem modexpRefused_iff : modexpRefused s = true ↔ s.m = 0 := by simp [modexpRefused]

@[simp] theorem gcdRefused_eq : gcdRefused s = false := rfl

theorem jacobiRefused_iff : jacobiRefused s = true ↔ s.m = 0 ∨ s.m % 2 = 0 := by simp [jacobiRefused]

theorem modinvRefused_iff : modinvRefused s = true ↔ s.m = 0 := by simp [modinvRefused]

theorem primetestRefused_iff : primetestRefused s = true ↔ s.rounds = 0 := by simp [primetestRefused]

theorem keygenRefused_iff (L : Nat) :
    keygenRefused L s = true ↔ L = 0 ∨ L % 2 = 1 ∨ s.rounds = 0 ∨ s.kmax < L := by
  simp [keygenRefused, or_assoc]

theorem ldkeyPubRefused_iff : ldkeyPubRefused s = true ↔ s.kn = 0 ∨ s.kd = 0 := by simp [ldkeyPubRefused]

theorem ldkeyPrivRefused_iff : ldkeyPrivRefused s = true ↔ s.kn = 0 ∨ s.ke = 0 := by simp [ldkeyPrivRefused]

end Checks

/-- The acceptance actions of a command and the phase it enters (R48, R67, R71). -/
def acceptedBy (i : Instr) (s : State) : State :=
  match i with
  | .primetest => primetestAccept s
  | .keygen imm16 => keygenAccept imm16 s
  | .montmul => s.enter .exec
  | .modexp => s.enter .exec
  | .gcd => s.enter .exec
  | .jacobi => s.enter .exec
  | .modinv => s.enter .exec
  | .ldkeyPub => s.enter .exec
  | .ldkeyPriv => s.enter .exec

/-- The step of a command in progress (R26). -/
def advanceOf (i : Instr) (s : State) : Outcome State Fault Refusal :=
  match i with
  | .montmul => montmulStep s
  | .modexp => modexpStep s
  | .gcd => gcdStep s
  | .jacobi => jacobiStep s
  | .modinv => modinvStep s
  | .primetest => primetestStep s
  | .keygen _ => keygenStep s
  | .ldkeyPub => ldkeyPubStep s
  | .ldkeyPriv => ldkeyPrivStep s

/-- R26, R48: what every command is. -/
theorem exec_eq_transact (i : Instr) (s : State) :
    exec i s = transact i (refusedBy i s) (acceptedBy i) (advanceOf i) s := by
  cases i <;> rfl

section
variable {i : Instr} {s t : State}

/-- R86: a refused command changes DONE, ERR and OPC only. -/
theorem exec_refused (h : s.phase = .idle) (hr : refusedBy i s = true) :
    exec i s = .next { s with done := true, err := .invalidArgument, opc := i.opcode } := by
  rw [exec_eq_transact, transact_refused h hr]
  simp [State.begin, State.raise, State.complete, h]

/-- R48: an accepted command. -/
theorem exec_accepted (h : s.phase = .idle) (hr : refusedBy i s = false) :
    exec i s = .next (acceptedBy i { s with done := false, err := .none, opc := i.opcode }) := by
  rw [exec_eq_transact, transact_accepted h hr]
  rfl

/-- R26: the command in progress takes its step. -/
theorem exec_advance (h : s.current = some i) : exec i s = advanceOf i s := by
  rw [exec_eq_transact, transact_advance h]

/-- The EXEC step of the one-step command OPC names (R25, R26). -/
theorem exec_of_opc (h : s.phase = .exec) (ho : oneStepCommand s.opc = some i) : exec i s = advanceOf i s :=
  exec_advance (by rw [State.current_of_exec h, ho])

/-- Everything one transition of a command can do. -/
theorem exec_next (h : exec i s = .next t) :
    (s.phase = .idle ∧ t = { s with done := true, err := .invalidArgument, opc := i.opcode }) ∨
    (s.phase = .idle ∧ refusedBy i s = false ∧
      t = acceptedBy i { s with done := false, err := .none, opc := i.opcode }) ∨
    (s.phase ≠ .idle ∧ s.current = some i ∧ advanceOf i s = .next t) ∨
    (s.phase ≠ .idle ∧ t = s) := by
  rw [exec_eq_transact] at h
  rcases transact_next h with ⟨hp, -, rfl⟩ | ⟨hp, hr, rfl⟩ | ⟨hp, hc, ha⟩ | ⟨hp, -, rfl⟩
  · exact Or.inl ⟨hp, by simp [State.begin, State.raise, State.complete, hp]⟩
  · exact Or.inr (Or.inl ⟨hp, hr, rfl⟩)
  · exact Or.inr (Or.inr (Or.inl ⟨hp, hc, ha⟩))
  · exact Or.inr (Or.inr (Or.inr ⟨hp, rfl⟩))

theorem oneStepCommand_ne_keygen {opc : BitVec 4} {L : Nat} : oneStepCommand opc ≠ some (.keygen L) := by
  unfold oneStepCommand; split <;> simp

theorem oneStepCommand_ne_primetest {opc : BitVec 4} : oneStepCommand opc ≠ some .primetest := by
  unfold oneStepCommand; split <;> simp

/-- R25: the phase says whether KEYGEN, PRIMETEST or a one-step command is in progress. -/
theorem current_keygen {L : Nat} (h : s.current = some (.keygen L)) :
    L = s.l.toNat ∧ (s.phase = .kgShape ∨ s.phase = .kgP ∨ s.phase = .kgQ ∨ s.phase = .kgCheck ∨
      s.phase = .kgDerive) := by
  unfold State.current at h
  split at h <;> simp_all [oneStepCommand_ne_keygen]

theorem current_primetest (h : s.current = some .primetest) : s.phase = .ptCheck ∨ s.phase = .ptTrial := by
  unfold State.current at h
  split at h <;> simp_all [oneStepCommand_ne_primetest]

theorem opcode_of_oneStepCommand {opc : BitVec 4} (h : oneStepCommand opc = some i) : opc = i.opcode := by
  have hb : ∀ k, opc.toNat = k → opc = BitVec.ofNat 4 k := by
    rintro k rfl; simp
  unfold oneStepCommand at h
  split at h
  all_goals first
    | (cases h; exact hb _ (by assumption))
    | cases h

/-- R25, R26: a one-step command in progress is in the EXEC phase, under its own operation code. -/
theorem current_oneStep (h : s.current = some i) (hk : ∀ L, i ≠ .keygen L) (hp : i ≠ .primetest) :
    s.phase = .exec ∧ s.opc = i.opcode := by
  unfold State.current at h
  split at h
  case h_2 he => exact ⟨he, opcode_of_oneStepCommand h⟩
  case h_1 => cases h
  case h_3 | h_4 => cases h; exact absurd rfl hp
  all_goals cases h; exact absurd rfl (hk _)

/-- R26: a step of a command in progress never faults. -/
theorem advanceOf_ne_fault (i : Instr) (s : State) (f : Fault) : advanceOf i s ≠ .fault f := by
  cases i <;> simp only [advanceOf]
  case primetest =>
    unfold primetestStep; split
    · simp [ptCheckStep]
    · exact settle_ne_fault _ _ _
  case keygen L =>
    unfold keygenStep; split
    · exact settle_ne_fault _ _ _
    · exact settle_ne_fault _ _ _
    · exact settle_ne_fault _ _ _
    all_goals simp [kgCheckStep, kgDeriveStep]
  all_goals
    simp [montmulStep, modexpStep, gcdStep, jacobiStep, modinvStep, ldkeyPubStep, ldkeyPrivStep]

theorem exec_ne_fault (i : Instr) (s : State) (f : Fault) : exec i s ≠ .fault f := by
  rw [exec_eq_transact]
  unfold transact
  split
  · simp
  · split
    · exact advanceOf_ne_fault i s f
    · simp

end

end Sys2Proof.Machine
end

