-- ==== Sys2Proof/Laws/Decode.lean ====
section
/-! SUPPORT. The fields of a command word, the decoder and the encoder, in numbers (R45 to R50): callers reason on
`w.toNat` and unfold no bit-vector operation. -/

namespace Sys2Proof

@[simp] theorem opField_toNat (w : Word) : (opField w).toNat = w.toNat % 16 := by
  simp [opField]

@[simp] theorem rsvField_toNat (w : Word) : (rsvField w).toNat = w.toNat / 16 % 4096 := by
  simp [rsvField, Nat.shiftRight_eq_div_pow]

@[simp] theorem immField_toNat (w : Word) : (immField w).toNat = w.toNat / 65536 := by
  have := w.isLt
  simp only [immField, BitVec.extractLsb'_toNat, Nat.shiftRight_eq_div_pow]
  omega

theorem opField_eq (w : Word) : opField w = BitVec.ofNat 4 (w.toNat % 16) := by
  rw [← BitVec.toNat_inj, opField_toNat]; simp

theorem rsvField_eq_zero {w : Word} : rsvField w = 0 ↔ w.toNat / 16 % 4096 = 0 := by
  rw [← BitVec.toNat_inj, rsvField_toNat]; rfl

theorem immField_eq_zero {w : Word} : immField w = 0 ↔ w.toNat / 65536 = 0 := by
  rw [← BitVec.toNat_inj, immField_toNat]; rfl

/-- Concatenation as arithmetic. -/
theorem toNat_append_eq {m n : Nat} (x : BitVec m) (y : BitVec n) :
    (x ++ y).toNat = x.toNat * 2 ^ n + y.toNat := by
  rw [BitVec.toNat_append, ← Nat.shiftLeft_add_eq_or_of_lt y.isLt, Nat.shiftLeft_eq]

/-- R45: the command word is `IMM16 * 2^16 + OP`, with RSV = 0. -/
theorem encode_toNat (i : Instr) : (encode i).toNat = i.immediate.toNat * 65536 + i.opcode.toNat := by
  unfold encode
  rw [toNat_append_eq, toNat_append_eq]
  simp
  omega

/-- The decoder of R48 by the number of the word. -/
theorem decode_eq (w : Word) :
    decode w =
      if w.toNat / 16 % 4096 ≠ 0 then .illegal .reservedBits
      else if w.toNat % 16 = 0 ∨ 10 ≤ w.toNat % 16 then .illegal .unknownOp
      else if w.toNat % 16 = 7 then .command (.keygen (w.toNat / 65536))
      else if w.toNat / 65536 ≠ 0 then .illegal .strayImmediate
      else match w.toNat % 16 with
        | 1 => .command .montmul
        | 2 => .command .modexp
        | 3 => .command .gcd
        | 4 => .command .jacobi
        | 5 => .command .modinv
        | 6 => .command .primetest
        | 8 => .command .ldkeyPub
        | _ => .command .ldkeyPriv := by
  unfold decode decodePlain
  simp only [rsvField_eq_zero, opField_toNat, immField_eq_zero, immField_toNat]
  have hk : w.toNat % 16 < 16 := by omega
  generalize w.toNat / 16 % 4096 = r, w.toNat / 65536 = m, w.toNat % 16 = k at hk ⊢
  by_cases hr : r = 0 <;> by_cases hm : m = 0 <;> simp only [hr, hm, ne_eq, not_true_eq_false, not_false_eq_true,
    if_true, if_false] <;> interval_cases k <;> rfl

end Sys2Proof
end

