-- ==== Sys2Proof/Laws/PerInstr.lean ====
section
/-! SUPPORT. What holds of every instruction as syntax. Family `TableRow`: the word of a command matches its own row
of the opcode map (R47) and leaves the reserved field 0 (R45). -/

namespace Sys2Proof.Laws.TableRow

/-- R45, R47: `(w AND mask) = match` for the word w of the command, and RSV = 0. -/
def Statement (i : Instr) : Prop :=
  i.wellFormed = true → encode i &&& i.mask = i.matchWord ∧ rsvField (encode i) = 0

theorem montmul : Statement .montmul := fun _ => by decide
theorem modexp : Statement .modexp := fun _ => by decide
theorem gcd : Statement .gcd := fun _ => by decide
theorem jacobi : Statement .jacobi := fun _ => by decide
theorem modinv : Statement .modinv := fun _ => by decide
theorem primetest : Statement .primetest := fun _ => by decide
theorem keygen (imm16 : Nat) : Statement (.keygen imm16) := fun _ => by
  have low (x : BitVec 16) : (x ++ (0 : BitVec 12) ++ (0x7 : BitVec 4)) &&& 0x0000FFFF#32 = 0x00000007#32 := by
    ext k hk
    simp only [BitVec.getElem_and, BitVec.getElem_append]
    interval_cases k <;> simp
  refine ⟨low _, rsvField_eq_zero.2 ?_⟩
  rw [encode_toNat, show (Instr.keygen imm16).opcode.toNat = 7 from rfl]
  omega
theorem ldkeyPub : Statement .ldkeyPub := fun _ => by decide
theorem ldkeyPriv : Statement .ldkeyPriv := fun _ => by decide

end Sys2Proof.Laws.TableRow
end

