-- ==== Sys2Proof/Laws/Step.lean ====
section
/-! SUPPORT. What one step of the machine can do: the move it takes, and the five shapes of its outcome. -/

namespace Sys2Proof.Machine

/-- With no move to come the sequencer moves (R44). -/
theorem step_of_nil {s : State} (h : s.env.pending = []) : step s = perform .sequencer s := by
  simp [step, moveOnce, h]

/-- Otherwise the oldest move is taken (R40). -/
theorem step_of_cons {s : State} {ev : Event} {rest : List Event} (h : s.env.pending = ev :: rest) :
    step s = perform ev (s.withPending rest) := by
  simp [step, moveOnce, h]

/-- A run of no steps. -/
@[simp] theorem run_zero (s : State) : Host.Core.run core 0 s = .next s := rfl

/-- A run that begins with a step to `t` goes on from `t`. -/
theorem run_of_step {k : Nat} {s t : State} (h : step s = .next t) :
    Host.Core.run core (k + 1) s = Host.Core.run core k t := by
  have h' : core.step s = .next t := h
  simp only [Host.Core.run, h']

@[simp] theorem target_cmd : target (portIndex 0x0000) = .cmd := by decide
@[simp] theorem target_status : target (portIndex 0x0004) = .status := by decide
@[simp] theorem target_err : target (portIndex 0x0008) = .err := by decide
@[simp] theorem target_rounds : target (portIndex 0x000C) = .rounds := by decide
@[simp] theorem target_ctrl : target (portIndex 0x0010) = .ctrl := by decide
@[simp] theorem target_kbits : target (portIndex 0x0014) = .kbits := by decide
@[simp] theorem target_pbits : target (portIndex 0x0018) = .pbits := by decide
@[simp] theorem target_config : target (portIndex 0x001C) = .config := by decide

/-- R38, R43, R48: a CMD write, out of reset. -/
theorem step_cmdWrite {s : State} {w : Word} {rest : List Event}
    (h : s.env.pending = .hostWrite (portIndex 0x0000) w :: rest) (hr : s.env.resetIn = false) :
    step s = if s.phase = .idle then takeWord (s.withPending rest) w else .next (s.withPending rest) := by
  rw [step_of_cons h]
  simp only [perform, hostWrite, target_cmd, State.withPending_env, State.withPending_phase, hr]
  rfl

/-- R26, R44: the sequencer's move with a command in progress. -/
theorem perform_sequencer {s : State} {i : Instr} (hr : s.env.resetIn = false) (hc : s.current = some i) :
    perform .sequencer s = exec i s := by
  simp [perform, hr, sequencerStep, hc]

/-- The five shapes of a step: only the environment changes; a command's transition; an illegal word; a host write to
a register other than CMD; the reset transition. -/
theorem step_next {s t : State} (h : step s = .next t) :
    (∃ e, t = { s with env := e }) ∨
    (∃ e i, exec i { s with env := e } = .next t ∧ (s.phase = .idle ∨ s.current = some i)) ∨
    (s.phase = .idle ∧ ∃ e op, t = { s with env := e, done := true, err := .illegalCommand, opc := op }) ∨
    (∃ e tg w, t = State.writeTarget { s with env := e } tg w ∧ ∃ p, s.env.pending.head? = some (.hostWrite p w)) ∨
    (s.env.pending.head? = some .resetAssert ∧ ∃ e, t = State.resetAt s.config e) := by
  have hseq : ∀ s0 : State, (∃ e, s0 = { s with env := e }) → perform .sequencer s0 = .next t →
      (∃ e, t = { s with env := e }) ∨
      (∃ e i, exec i { s with env := e } = .next t ∧ (s.phase = .idle ∨ s.current = some i)) := by
    rintro s0 ⟨e, rfl⟩ hp
    simp only [perform] at hp
    split at hp
    · cases hp; exact Or.inl ⟨e, rfl⟩
    · unfold sequencerStep at hp
      split at hp
      · rename_i i hc; exact Or.inr ⟨e, i, hp, Or.inr hc⟩
      · split at hp
        · cases hp; exact Or.inl ⟨e, rfl⟩
        · cases hp
  rcases hq : s.env.pending with _ | ⟨ev, rest⟩
  · rw [step_of_nil hq] at h
    rcases hseq s ⟨s.env, rfl⟩ h with h | h
    · exact Or.inl h
    · exact Or.inr (Or.inl h)
  · rw [step_of_cons hq] at h
    cases ev with
    | sequencer =>
      rcases hseq _ ⟨_, rfl⟩ h with h | h
      · exact Or.inl h
      · exact Or.inr (Or.inl h)
    | hostRead p => cases h; exact Or.inl ⟨_, rfl⟩
    | hostWait =>
      simp only [perform, pollDone] at h
      split at h <;> cases h <;> exact Or.inl ⟨_, rfl⟩
    | rngAnswer v =>
      simp only [perform] at h
      split at h <;> cases h <;> exact Or.inl ⟨_, rfl⟩
    | rngSilence b => cases h; exact Or.inl ⟨_, rfl⟩
    | resetRelease => cases h; exact Or.inl ⟨_, rfl⟩
    | resetAssert =>
      cases h
      exact Or.inr (Or.inr (Or.inr (Or.inr ⟨rfl, _, rfl⟩)))
    | hostWrite p w =>
      simp only [perform] at h
      split at h
      · cases h; exact Or.inl ⟨_, rfl⟩
      · unfold hostWrite at h
        split at h
        · split at h
          · rename_i hi
            unfold takeWord at h
            split at h
            · exact Or.inr (Or.inl ⟨_, _, h, Or.inl hi⟩)
            · cases h
              refine Or.inr (Or.inr (Or.inl ⟨hi, (s.withPending rest).env, opField w, ?_⟩))
              simp only [State.withPending_phase] at hi
              simp [State.withPending, State.begin, State.raise, State.complete, hi]
          · cases h; exact Or.inl ⟨_, rfl⟩
        · cases h
          exact Or.inr (Or.inr (Or.inr (Or.inl ⟨_, _, w, rfl, p, rfl⟩)))

end Sys2Proof.Machine
end

