-- ==== Sys2Proof/Laws/Port.lean ====
section
/-! SUPPORT. The host port, said once: which byte offsets a target stands for (R33), when a read of a port word is the
same in two states, what a window offset addresses, and what reads after reset. -/

namespace Sys2Proof.Machine

theorem bigRegOf_eq_some {n : Nat} {x : BigReg} (h : bigRegOf n = some x) : n = x.index := by
  unfold bigRegOf at h
  split at h <;> cases h <;> rfl

theorem bigRegOf_eq_none {n : Nat} (h : bigRegOf n = none) : 9 ≤ n := by
  by_contra hc
  have : n < 9 := by omega
  interval_cases n <;> simp [bigRegOf] at h

theorem BigReg.index_le (x : BigReg) : x.index ≤ 8 := by cases x <;> simp [BigReg.index]

/-- The byte offsets of a target (the address map of R33). -/
def Target.At (p : PortIndex) : Target → Prop
  | .cmd => 4 * p.val = 0x00
  | .status => 4 * p.val = 0x04
  | .err => 4 * p.val = 0x08
  | .rounds => 4 * p.val = 0x0C
  | .ctrl => 4 * p.val = 0x10
  | .kbits => 4 * p.val = 0x14
  | .pbits => 4 * p.val = 0x18
  | .config => 4 * p.val = 0x1C
  | .window x j => j < 256 ∧ 4 * p.val = 0x1000 + 0x400 * x.index + 4 * j
  | .reserved => (0x20 ≤ 4 * p.val ∧ 4 * p.val < 0x1000) ∨ 0x3400 ≤ 4 * p.val

/-- R33: what an offset addresses stands at that offset. -/
theorem target_at (p : PortIndex) : (target p).At p := by
  unfold target
  split
  · rename_i h
    split <;> simp only [Target.At] <;> first | assumption | skip
    left
    rename_i h0 h1 h2 h3 h4 h5 h6 h7
    simp only [imp_false] at *
    omega
  · rename_i h
    have := p.isLt
    split
    · rename_i x hx
      have := bigRegOf_eq_some hx
      simp only [Target.At]
      rw [← this]
      omega
    · rename_i hx
      have := bigRegOf_eq_none hx
      simp only [Target.At]
      omega

/-- A port word reads the same in two states when its target does. -/
theorem hostRead_congr {s t : State} (p : PortIndex)
    (h : ∀ tg : Target, tg.At p → t.readTarget tg = s.readTarget tg) : t.hostRead p = s.hostRead p :=
  h _ (target_at p)

/-- No port word depends on the agents around the block. -/
@[simp] theorem hostRead_env (s : State) (e : Env) (p : PortIndex) :
    State.hostRead { s with env := e } p = s.hostRead p := by
  apply hostRead_congr
  intro tg _
  cases tg with
  | window x j => cases x <;> rfl
  | _ => rfl

theorem portIndex_val {offset : Nat} (h : offset < 0x4000) : (portIndex offset).val = offset / 4 := by
  simp only [portIndex, Fin.ofNat]
  omega

/-- R33, R34: the offset of word `j` of the window of a register. -/
theorem target_window {n j : Nat} {x : BigReg} (h : bigRegOf n = some x) (hj : j < 256) :
    target (portIndex (0x1000 + 0x400 * n + 4 * j)) = .window x j := by
  have hn : n < 9 := by
    have := x.index_le
    have := bigRegOf_eq_some h
    omega
  unfold target
  rw [portIndex_val (by omega), if_neg (by omega),
    show (4 * ((0x1000 + 0x400 * n + 4 * j) / 4) - 0x1000) / 0x400 = n by omega, h]
  simp only [Target.window.injEq, true_and]
  omega

@[simp] theorem target_windowIndex (x : BigReg) {j : Nat} (hj : j < 256) :
    target (windowIndex x j) = .window x j :=
  target_window (by cases x <;> rfl) hj

/-- R20: bit 1 of STATUS is DONE. -/
theorem statusWord_done (s : State) : s.statusWord.getLsbD 1 = s.done := by
  have hb : ∀ (x : BitVec 30) (d b : Bool), (x ++ BitVec.ofBool d ++ BitVec.ofBool b).getLsbD 1 = d := by
    intro x d b
    rw [BitVec.getLsbD_append, if_neg (by decide), BitVec.getLsbD_append, if_pos (by decide)]
    cases d <;> rfl
  exact hb _ _ _

/-- R96: every port word of a block just reset reads 0 but CONFIG. -/
theorem resetAt_hostRead (config : Word) (e : Env) (p : PortIndex) :
    (State.resetAt config e).hostRead p = if 4 * p.val = 0x1C then config else 0 := by
  have ht := target_at p
  unfold State.hostRead
  generalize target p = tg at *
  cases tg with
  | window x j =>
    simp only [Target.At] at ht
    rw [if_neg (by omega)]
    simp only [State.readTarget, State.windowRead]
    split
    · cases x <;> simp [State.resetAt, State.big, wordOf]
    · rfl
  | config =>
    simp only [Target.At] at ht
    rw [if_pos ht]
    rfl
  | reserved =>
    simp only [Target.At] at ht
    rw [if_neg (by omega)]
    rfl
  | status =>
    simp only [Target.At] at ht
    rw [if_neg (by omega)]
    simp [State.readTarget, State.statusWord, State.resetAt, State.busy, State.errf, Phase.code, Sym.bits]
  | _ =>
    simp only [Target.At] at ht
    rw [if_neg (by omega)]
    rfl

end Sys2Proof.Machine
end

