-- ==== Sys2Proof/Tests/Slice0.lean ====
section
/-! SUPPORT. Small tests of the model, each on words and values that stand in the spec (30_encoding.md R47,
95_test_vectors.md), and for every obligation with hypotheses a witness that meets them, clause by clause. -/

namespace Sys2Proof.Tests

open Sys2Proof.Machine Sys2Proof.Safety Host

/-! ### States for the tests -/

/-- A block with KMAX = 32, just reset. -/
def base : State := State.resetAt 32 Env.quiet

/-- The same with KMAX = 64. -/
def base64 : State := State.resetAt 64 Env.quiet

/-- Operands loaded, ROUNDS = 1 (the start state of 95_test_vectors.md section 2.1 for 3, 5, 7). -/
def loaded (a b m : Nat) : State := { base with a := a, b := b, m := m, rounds := 1 }

/-- A one-step command accepted: its EXEC step is pending. -/
def running (op : BitVec 4) (a b m : Nat) : State := { loaded a b m with phase := .exec, opc := op }

/-- PRIMETEST in progress on candidate c with t trials left. -/
def testing (p : Phase) (c : Nat) (t : BitVec 32) : State :=
  { base with phase := p, opc := 6, a := c, c := c, t := t, rounds := 5 }

/-- KEYGEN L in progress with candidates p and q. -/
def generating (ph : Phase) (l : BitVec 16) (p q : Nat) : State :=
  { base with phase := ph, opc := 7, l := l, h := l / 2, cp := p, cq := q, rounds := 2 }

/-- The key of program P2: KEYGEN 8 with p = 13, q = 11. -/
def keyed : State := { base with kn := 143, kp := 13, kq := 11, ke := 65537, kd := 113, kbits := 8 }

/-- The answers waiting at the RNG port. -/
def answering (s : State) (vs : List Nat) : State := { s with env := { s.env with answers := vs } }

/-- The next state, where there is one. -/
def next? (o : Outcome State Fault Refusal) : Option State :=
  match o with
  | .next s => some s
  | .fault _ => none
  | .refused _ => none

/-- A field of the next state. -/
def field {α : Type} (o : Outcome State Fault Refusal) (f : State → α) : Option α := (next? o).map f

/-! ### Well-formed terms -/

/-- R46: an immediate of 17 bits is no command; 65535 is one; the commands without operand are. -/
theorem test_wellFormed :
    (Instr.keygen 65536).wellFormed = false ∧ (Instr.keygen 65535).wellFormed = true ∧
    Instr.montmul.wellFormed = true ∧ Instr.modexp.wellFormed = true ∧ Instr.gcd.wellFormed = true ∧
    Instr.jacobi.wellFormed = true ∧ Instr.modinv.wellFormed = true ∧ Instr.primetest.wellFormed = true ∧
    Instr.ldkeyPub.wellFormed = true ∧ Instr.ldkeyPriv.wellFormed = true := by decide

/-! ### Decoding: IMM16, RSV and OP written out from the table of R47 -/

theorem test_decode_montmul : decode 0b0000000000000000_000000000000_0001#32 = .command .montmul := by decide
theorem test_decode_modexp : decode 0b0000000000000000_000000000000_0010#32 = .command .modexp := by decide
theorem test_decode_gcd : decode 0b0000000000000000_000000000000_0011#32 = .command .gcd := by decide
theorem test_decode_jacobi : decode 0b0000000000000000_000000000000_0100#32 = .command .jacobi := by decide
theorem test_decode_modinv : decode 0b0000000000000000_000000000000_0101#32 = .command .modinv := by decide
theorem test_decode_primetest : decode 0b0000000000000000_000000000000_0110#32 = .command .primetest := by decide
theorem test_decode_keygen :
    decode 0b0000000000100000_000000000000_0111#32 = .command (.keygen 32) ∧
    decode 0b1111111111111111_000000000000_0111#32 = .command (.keygen 65535) ∧
    decode 0b1000000000000000_000000000000_0111#32 = .command (.keygen 32768) := by decide
theorem test_decode_ldkeyPub : decode 0b0000000000000000_000000000000_1000#32 = .command .ldkeyPub := by decide
theorem test_decode_ldkeyPriv : decode 0b0000000000000000_000000000000_1001#32 = .command .ldkeyPriv := by decide

/-- The illegal rows of 95_test_vectors.md 2.1, each for its reason (R50). -/
theorem test_decode_illegal :
    decode 0x00000000#32 = .illegal .unknownOp ∧ decode 0x0000000A#32 = .illegal .unknownOp ∧
    decode 0x0000000F#32 = .illegal .unknownOp ∧ decode 0x00000012#32 = .illegal .reservedBits ∧
    decode 0x00008002#32 = .illegal .reservedBits ∧ decode 0x00030017#32 = .illegal .reservedBits ∧
    decode 0x00010002#32 = .illegal .strayImmediate ∧ decode 0x80000001#32 = .illegal .strayImmediate := by decide

/-- `KEYGEN 32` is 0x00200007 (R71); the words of the commands of program P1 and P2 (R47). -/
theorem test_encode :
    encode (.keygen 32) = 0x00200007#32 ∧ encode .modexp = 0x00000002#32 ∧ encode .ldkeyPriv = 0x00000009#32 ∧
    decodeTableWord 32 0x00000007 = some (.keygen 0) ∧ decodeTableWord 32 0x0000000A = none := by decide

/-! ### One step of each command, on values of 95_test_vectors.md -/

/-- 2.3: (3, 5, 7) gives 2 with KMAX = 32 and 4 with KMAX = 64. -/
theorem test_montmul_product :
    field (exec .montmul (running 1 3 5 7)) (·.r) = some 2 ∧
    field (exec .montmul { running 1 3 5 7 with config := 64 }) (·.r) = some 4 := by decide

/-- 2.3: B = M is refused and R stays. -/
theorem test_montmul_refused :
    field (exec .montmul { loaded 3 7 7 with r := 6 }) (fun s => (s.err, s.statusWord, s.r)) =
      some (.invalidArgument, 0x00001006, 6) := by decide

/-- 2.4: `4^13 mod 497 = 445`. -/
theorem test_modexp_power : field (exec .modexp (running 2 4 13 497)) (·.r) = some 445 := by decide

/-- 2.4: `0^0 mod 7 = 1`, and everything modulo 1 is 0. -/
theorem test_modexp_corners :
    field (exec .modexp (running 2 0 0 7)) (·.r) = some 1 ∧
    field (exec .modexp (running 2 5 0 1)) (·.r) = some 0 := by decide

/-- 2.5: (12, 18) gives 6, (0, 0) gives 0. -/
theorem test_gcd :
    field (exec .gcd (running 3 12 18 0)) (·.r) = some 6 ∧ field (exec .gcd (running 3 0 0 0)) (·.r) = some 0 := by
  decide

/-- 2.6: `J(1001, 9907) = -1`, STATUS 0x00004062; R is not written. -/
theorem test_jacobi :
    field (exec .jacobi (running 4 1001 0 9907)) (fun s => (s.statusWord, s.r)) = some (0x00004062, 0) := by decide

/-- 2.6: `J(3, 9) = 0`; an even M is refused and JAC stays. -/
theorem test_jacobi_corners :
    field (exec .jacobi (running 4 3 0 9)) (·.jac) = some .zero ∧
    field (exec .jacobi { loaded 3 0 8 with jac := .minusOne }) (·.statusWord) = some 0x00004066 := by decide

/-- 2.7: the inverse of 65537 modulo 120 is 113; modulo 1 it is 0. -/
theorem test_modinv :
    field (exec .modinv (running 5 65537 0 120)) (·.r) = some 113 ∧
    field (exec .modinv (running 5 5 0 1)) (·.r) = some 0 := by decide

/-- 2.7: (6, 9) has no inverse: ERR = 2, R as it was. -/
theorem test_modinv_noInverse :
    field (exec .modinv { running 5 6 0 9 with r := 89 }) (fun s => (s.statusWord, s.err, s.r)) =
      some (0x00005006, .arithmeticInconsistency, 89) := by decide

/-- 2.9: A = 7, witness 3 accepts at the first trial: STATUS 0x00006012. -/
theorem test_primetest_accepts :
    field (exec .primetest (answering (testing .ptTrial 7 1) [3])) (·.statusWord) = some 0x00006012 := by decide

/-- 2.8: 9 with witness 2 fails: one trial fewer, or with the last one PRIME = 0 and STATUS 0x00006002. -/
theorem test_primetest_rejects :
    field (exec .primetest (answering (testing .ptTrial 9 5) [2])) (fun s => (s.phase, s.t)) = some (.ptTrial, 4) ∧
    field (exec .primetest (answering (testing .ptTrial 9 1) [2])) (·.statusWord) = some 0x00006002 := by decide

/-- R71: an accepted KEYGEN zeroes the key file; a refused one leaves it. -/
theorem test_keygen_accept :
    field (exec (.keygen 32) { keyed with rounds := 1 }) (fun s => (s.kn, s.kd, s.kbits, s.statusWord)) =
      some (0, 0, 0, 0x00007401) ∧
    field (exec (.keygen 34) { keyed with rounds := 1 }) (fun s => (s.kn, s.kd, s.kbits, s.statusWord)) =
      some (143, 113, 8, 0x00007006) := by decide

/-- R79 (e): p = 13, q = 11 gives the key (143, 65537, 113) of 8 bits. -/
theorem test_keygen_derive :
    field (exec (.keygen 8) (generating .kgDerive 8 13 11)) (fun s => (s.kn, s.ke, s.kd, s.kbits, s.statusWord)) =
      some (143, 65537, 113, 8, 0x00007002) := by decide

/-- R80: LDKEY.PUB loads d. -/
theorem test_ldkeyPub :
    field (exec .ldkeyPub { keyed with phase := .exec, opc := 8 }) (fun s => (s.m, s.b, s.pbits)) =
      some (143, 113, 8) := by decide

/-- R81: LDKEY.PRIV loads e; with the key unset it is refused. -/
theorem test_ldkeyPriv :
    field (exec .ldkeyPriv { keyed with phase := .exec, opc := 9 }) (fun s => (s.m, s.b, s.pbits)) =
      some (143, 65537, 8) ∧
    field (exec .ldkeyPriv base) (·.statusWord) = some 0x00009006 := by decide

/-! ### The host port, on the transactions of 95_test_vectors.md 2.2 -/

/-- Writing A[1] of a 64-bit block keeps word 0; word 2 does not exist. -/
theorem test_window :
    field (hostWrite { base64 with a := 0x0000000100000002 } (portIndex 0x1004) 0xFFFFFFFF) (·.a) =
      some 0xFFFFFFFF00000002 ∧
    field (hostWrite { base64 with a := 0x0000000100000002 } (portIndex 0x1008) 0x55) (·.a) =
      some 0x0000000100000002 ∧
    State.hostRead { base64 with a := 0x0000000100000002 } (portIndex 0x1004) = 0x00000001 ∧
    State.hostRead { base64 with a := 0x0000000100000002 } (portIndex 0x1008) = 0 := by decide

/-- Only IE of CTRL exists; R is read-only; CONFIG reads KMAX; 0x0020 is reserved. -/
theorem test_port :
    field (hostWrite base64 (portIndex 0x0010) 0xFFFFFFFF) (fun s => s.hostRead (portIndex 0x0010)) = some 1 ∧
    field (hostWrite base64 (portIndex 0x1C00) 0x77) (fun s => s.hostRead (portIndex 0x1C00)) = some 0 ∧
    base64.hostRead (portIndex 0x001C) = 0x40 ∧ base64.hostRead (portIndex 0x0020) = 0 := by decide

/-- An illegal word in KEYGEN's opcode reports 3, not 1 (R85). -/
theorem test_illegal_word :
    field (step (State.withFetchWord (loaded 3 5 7) 32 0x00030017)) (fun s => (s.err, s.statusWord)) =
      some (.illegalCommand, 0x00007006) := by decide

/-! ### Every obligation's hypotheses can be met -/

theorem test_witness_DecodeOfEncodeIsTheCommand :
    (Instr.keygen 0).wellFormed = true ∧ (Instr.keygen 65535).wellFormed = true ∧
    Instr.ldkeyPriv.wellFormed = true := by decide

theorem test_witness_DecodedCommandEncodesAsItsWord :
    decode 0xFFFF0007 = .command (.keygen 65535) ∧ decode 0x00000009 = .command .ldkeyPriv := by decide

theorem test_witness_WordEncodesCommandWhenItMatchesItsRow :
    decode 0xFFFF0007 = .command (.keygen 65535) ∧ decode 0x00000007 = .command (.keygen 0) := by decide

theorem test_witness_IllegalWordRaisesIllegalCommandOnly :
    ∃ s : State, s.env.pending = .hostWrite (portIndex 0x0000) 0x0000000A :: [] ∧ s.env.resetIn = false ∧
      s.phase = .idle ∧ decode 0x0000000A = .illegal .unknownOp :=
  ⟨base.withPending [.hostWrite (portIndex 0x0000) 0x0000000A], by decide⟩

theorem test_witness_StepRunsTheCommandWrittenOrInProgress :
    (∃ s : State, s.env.resetIn = false ∧ s.phase = .idle ∧ decode 0x00000001 = .command .montmul ∧
      s.env.pending = .hostWrite (portIndex 0x0000) 0x00000001 :: []) ∧
    (∃ s : State, s.env.resetIn = false ∧ s.current = some .montmul ∧ s.env.pending = []) ∧
    (∃ s : State, s.env.resetIn = false ∧ s.current = some (.keygen 8) ∧ s.env.pending = .sequencer :: []) :=
  ⟨⟨(loaded 3 5 7).withPending [.hostWrite (portIndex 0x0000) 0x00000001], by decide⟩,
    ⟨running 1 3 5 7, by decide⟩,
    ⟨(generating .kgShape 8 0 0).withPending [.sequencer], by decide⟩⟩

/-- The clauses of the CMD write, in order: busy; illegal; refused at the boundary `B = M`; accepted PRIMETEST; accepted
KEYGEN with `L = KMAX`; accepted MONTMUL with `A = M - 1`. -/
theorem test_witness_CommandWriteIsDecodedCheckedAndAccepted :
    (∃ s : State, s.env.pending = .hostWrite (portIndex 0x0000) 0x00000001 :: [] ∧ s.env.resetIn = false ∧
      s.phase ≠ .idle) ∧
    (∃ s : State, s.env.pending = .hostWrite (portIndex 0x0000) 0x0000000A :: [] ∧ s.env.resetIn = false ∧
      s.phase = .idle ∧ 10 ≤ (0x0000000A : Word).toNat % 16) ∧
    (∃ s : State, s.env.pending = .hostWrite (portIndex 0x0000) 0x00000001 :: [] ∧ s.env.resetIn = false ∧
      s.phase = .idle ∧ (0x00000001 : Word).toNat % 16 = 1 ∧ s.m ≤ s.b) ∧
    (∃ s : State, s.env.pending = .hostWrite (portIndex 0x0000) 0x00000006 :: [] ∧ s.env.resetIn = false ∧
      s.phase = .idle ∧ (0x00000006 : Word).toNat % 16 = 6 ∧ s.rounds ≠ 0) ∧
    (∃ s : State, s.env.pending = .hostWrite (portIndex 0x0000) 0x00200007 :: [] ∧ s.env.resetIn = false ∧
      s.phase = .idle ∧ (0x00200007 : Word).toNat % 16 = 7 ∧ (0x00200007 : Word).toNat / 65536 = s.kmax ∧
      s.rounds ≠ 0) ∧
    (∃ s : State, s.env.pending = .hostWrite (portIndex 0x0000) 0x00000001 :: [] ∧ s.env.resetIn = false ∧
      s.phase = .idle ∧ s.m % 2 = 1 ∧ s.a + 1 = s.m ∧ s.b < s.m) :=
  ⟨⟨(running 2 3 5 7).withPending [.hostWrite (portIndex 0x0000) 0x00000001], by decide⟩,
    ⟨base.withPending [.hostWrite (portIndex 0x0000) 0x0000000A], by decide⟩,
    ⟨(loaded 3 7 7).withPending [.hostWrite (portIndex 0x0000) 0x00000001], by decide⟩,
    ⟨(loaded 3 5 7).withPending [.hostWrite (portIndex 0x0000) 0x00000006], by decide⟩,
    ⟨(loaded 3 5 7).withPending [.hostWrite (portIndex 0x0000) 0x00200007], by decide⟩,
    ⟨(loaded 6 5 7).withPending [.hostWrite (portIndex 0x0000) 0x00000001], by decide⟩⟩

theorem test_witness_OneStepCommandsCompleteInTwoSteps :
    (∃ s : State, s.phase = .idle ∧ s.env.pending = [] ∧ s.env.resetIn = false ∧ s.m % 2 = 1 ∧ s.a < s.m ∧
      s.b < s.m) ∧
    (∃ s : State, s.phase = .idle ∧ s.env.pending = [] ∧ s.env.resetIn = false ∧ s.kn ≠ 0 ∧ s.kd ≠ 0 ∧ s.ke ≠ 0) :=
  ⟨⟨loaded 3 5 7, by decide⟩, ⟨keyed, by decide⟩⟩

theorem test_witness_PhaseFollowsTheGraph :
    ∃ t : State, step (running 2 3 5 7) = .next t ∧ t.phase ≠ (running 2 3 5 7).phase := ⟨_, rfl, by decide⟩

theorem test_witness_MontmulWritesTheMontgomeryProduct :
    (∃ s : State, s.phase = .idle ∧ s.m = s.a) ∧
    (∃ s : State, s.phase = .idle ∧ s.m % 2 = 1 ∧ s.a + 1 = s.m ∧ s.b < s.m) ∧
    (∃ s : State, s.phase = .exec ∧ s.opc = 0x1 ∧ s.m % 2 = 1 ∧ s.a + 1 = s.m ∧ s.b + 1 = s.m) :=
  ⟨⟨loaded 7 5 7, by decide⟩, ⟨loaded 6 5 7, by decide⟩, ⟨running 1 96 96 97, by decide⟩⟩

theorem test_witness_ModexpWritesThePowerModulo :
    (∃ s : State, s.phase = .idle ∧ s.m = 0) ∧ (∃ s : State, s.phase = .idle ∧ s.m = 1) ∧
    (∃ s : State, s.phase = .exec ∧ s.opc = 0x2 ∧ s.m = 1) :=
  ⟨⟨loaded 5 3 0, by decide⟩, ⟨loaded 5 3 1, by decide⟩, ⟨running 2 5 3 1, by decide⟩⟩

theorem test_witness_GcdWritesTheGreatestCommonDivisor :
    (∃ s : State, s.phase = .idle ∧ s.a = 0 ∧ s.b = 0) ∧ (∃ s : State, s.phase = .exec ∧ s.opc = 0x3) :=
  ⟨⟨loaded 0 0 0, by decide⟩, ⟨running 3 12 18 0, by decide⟩⟩

theorem test_witness_JacobiWritesTheJacobiSymbol :
    (∃ s : State, s.phase = .idle ∧ s.m = 0) ∧ (∃ s : State, s.phase = .idle ∧ s.m % 2 = 0 ∧ s.m ≠ 0) ∧
    (∃ s : State, s.phase = .idle ∧ s.m = 1) ∧ (∃ s : State, s.phase = .exec ∧ s.opc = 0x4 ∧ s.m % 2 = 1) :=
  ⟨⟨loaded 3 0 0, by decide⟩, ⟨loaded 1 0 2, by decide⟩, ⟨loaded 0 0 1, by decide⟩, ⟨running 4 3 0 9, by decide⟩⟩

theorem test_witness_ModinvWritesTheInverseOrFails :
    (∃ s : State, s.phase = .idle ∧ s.m = 0) ∧ (∃ s : State, s.phase = .idle ∧ s.m = 1) ∧
    (∃ s : State, s.phase = .exec ∧ s.opc = 0x5 ∧ s.m = 1 ∧ Nat.gcd s.a s.m = 1) ∧
    (∃ s : State, s.phase = .exec ∧ s.opc = 0x5 ∧ s.m ≠ 0 ∧ Nat.gcd s.a s.m ≠ 1) :=
  ⟨⟨loaded 3 0 0, by decide⟩, ⟨loaded 3 0 1, by decide⟩, ⟨running 5 0 0 1, by decide⟩, ⟨running 5 6 0 9, by decide⟩⟩

theorem test_witness_LdkeyPubLoadsTheDerivedExponent :
    (∃ s : State, s.phase = .idle ∧ s.kn = 0) ∧ (∃ s : State, s.phase = .idle ∧ s.kn ≠ 0 ∧ s.kd ≠ 0) ∧
    (∃ s : State, s.phase = .exec ∧ s.opc = 0x8) :=
  ⟨⟨base, by decide⟩, ⟨keyed, by decide⟩, ⟨{ keyed with phase := .exec, opc := 8 }, by decide⟩⟩

theorem test_witness_LdkeyPrivLoadsTheFixedExponent :
    (∃ s : State, s.phase = .idle ∧ s.ke = 0) ∧ (∃ s : State, s.phase = .idle ∧ s.kn ≠ 0 ∧ s.ke ≠ 0) ∧
    (∃ s : State, s.phase = .exec ∧ s.opc = 0x9) :=
  ⟨⟨base, by decide⟩, ⟨keyed, by decide⟩, ⟨{ keyed with phase := .exec, opc := 9 }, by decide⟩⟩

/-- The least candidate with its only witness, and a composite that its greatest witness accepts (2.8). -/
theorem test_witness_TrialMatchesTheNonzeroResidue :
    (3 ≤ 3 ∧ 3 % 2 = 1 ∧ 2 ≤ 2 ∧ 2 ≤ 3 - 1 ∧ trial 3 2 = true) ∧
    (3 ≤ 15 ∧ 15 % 2 = 1 ∧ 2 ≤ 14 ∧ 14 ≤ 15 - 1 ∧ trial 15 14 = true ∧ trial 15 2 = false) := by decide

/-- One candidate for each clause of R66; for 9, witness 2 fails and witness 8 accepts (2.8). -/
theorem test_witness_PrimalityTestAcceptsOnFirstMatch :
    (1 ≤ 1 ∧ 1 < 2 ∧ 2 < 4 ∧ 4 % 2 = 0) ∧
    (∃ e : Env, (1 ≤ 5 ∧ 3 ≤ 9 ∧ 9 % 2 = 1) ∧ (e.answers.take 5).findIdx? (trial 9) = some 1 ∧
      ∀ v ∈ e.answers.take (1 + 1), 2 ≤ v ∧ v ≤ 9 - 1) ∧
    (∃ e : Env, (1 ≤ 1 ∧ 3 ≤ 9 ∧ 9 % 2 = 1 ∧ 1 ≤ e.answers.length) ∧
      (e.answers.take 1).findIdx? (trial 9) = none ∧ ∀ v ∈ e.answers.take 1, 2 ≤ v ∧ v ≤ 9 - 1) :=
  ⟨by decide, ⟨(answering base [2, 8]).env, by decide, by decide, by decide⟩,
    ⟨(answering base [2]).env, by decide, by decide, by decide⟩⟩

theorem test_witness_PrimetestCopiesItsOperands :
    (∃ s : State, s.phase = .idle ∧ s.rounds = 0) ∧ (∃ s : State, s.phase = .idle ∧ s.rounds = 1) :=
  ⟨⟨base, by decide⟩, ⟨loaded 3 5 7, by decide⟩⟩

theorem test_witness_PrimetestDecidesSmallAndEvenCandidates :
    (∃ s : State, s.phase = .ptCheck ∧ s.c = 1) ∧ (∃ s : State, s.phase = .ptCheck ∧ s.c = 2) ∧
    (∃ s : State, s.phase = .ptCheck ∧ s.c = 4) ∧ (∃ s : State, s.phase = .ptCheck ∧ s.c = 3) :=
  ⟨⟨testing .ptCheck 1 5, by decide⟩, ⟨testing .ptCheck 2 5, by decide⟩, ⟨testing .ptCheck 4 5, by decide⟩,
    ⟨testing .ptCheck 3 5, by decide⟩⟩

/-- A waiting answer at each end of the range, with the last trial; and an environment that answers freely. -/
theorem test_witness_PrimetestTrialStepFollowsItsDraw :
    (∃ s : State, s.phase = .ptTrial ∧ 3 ≤ s.c ∧ s.c % 2 = 1 ∧ s.t = 1 ∧ s.env.answers = 2 :: []) ∧
    (∃ s : State, s.phase = .ptTrial ∧ s.c = 9 ∧ s.t ≠ 0 ∧ s.env.answers = 8 :: []) ∧
    (∃ s : State, s.phase = .ptTrial ∧ s.c = 3 ∧ s.t ≠ 0 ∧ s.env.answers = [] ∧ s.env.rngSilent = false) :=
  ⟨⟨answering (testing .ptTrial 9 1) [2], by decide⟩, ⟨answering (testing .ptTrial 9 5) [8], by decide⟩,
    ⟨testing .ptTrial 3 5, by decide⟩⟩

theorem test_witness_PrimeCandidateIsAcceptedAtTheFirstTrial :
    Nat.Prime 3 ∧ (3 : Nat) ≠ 2 ∧ (2 ≤ 2 ∧ 2 ≤ 3 - 1) ∧
    (∃ s : State, s.phase = .ptTrial ∧ s.c = 3 ∧ s.env.answers = [] ∧ s.env.rngSilent = false) ∧
    (∃ s : State, s.phase = .ptTrial ∧ s.c = 3 ∧ s.env.answers = 2 :: []) :=
  ⟨Nat.prime_three, by decide, by decide, ⟨testing .ptTrial 3 5, by decide⟩,
    ⟨answering (testing .ptTrial 3 5) [2], by decide⟩⟩

theorem test_witness_PrimetestCompletesWithinItsRounds :
    ∃ s : State, s.phase = .ptCheck ∧ s.t = 1 ∧ s.c = 9 ∧ s.env.pending = [] ∧ s.env.resetIn = false ∧
      s.env.answers = [] ∧ s.env.rngSilent = false :=
  ⟨testing .ptCheck 9 1, by decide⟩

/-- Refused at each boundary (0, odd, KMAX + 2, ROUNDS = 0), accepted at 2 and at KMAX. -/
theorem test_witness_KeygenChecksItsLengthAndZeroesTheKeyFile :
    (∃ s : State, s.phase = .idle ∧ s.kmax < 34 ∧ 34 < 2 ^ 16) ∧ (∃ s : State, s.phase = .idle ∧ s.rounds = 0) ∧
    (∃ s : State, s.phase = .idle ∧ 2 ≤ s.kmax ∧ s.rounds ≠ 0) ∧
    (∃ s : State, s.phase = .idle ∧ 32 = s.kmax ∧ s.rounds ≠ 0) :=
  ⟨⟨loaded 0 0 0, by decide⟩, ⟨base, by decide⟩, ⟨loaded 0 0 0, by decide⟩, ⟨loaded 0 0 0, by decide⟩⟩

/-- Draws at both ends of `Bits(4)`, as waiting answers; and free answers. -/
theorem test_witness_KeygenShapeCheckTakesTwoDraws :
    (∃ s : State, (s.phase = .kgShape ∧ s.h ≠ 0 ∧ s.l.toNat = 2 * s.h.toNat ∧ s.env.answers = 8 :: 15 :: []) ∧
      2 ^ (s.h.toNat - 1) ≤ 8 ∧ 15 < 2 ^ s.h.toNat) ∧
    (∃ s : State, s.phase = .kgShape ∧ s.h ≠ 0 ∧ s.l.toNat = 2 * s.h.toNat ∧ s.env.answers = [] ∧
      s.env.rngSilent = false) :=
  ⟨⟨answering (generating .kgShape 8 0 0) [8, 15], by decide, by decide⟩, ⟨generating .kgShape 8 0 0, by decide⟩⟩

/-- The candidates 9 (rejected by 2 and 3) and 13 (accepted by 2) of R79 (e). -/
theorem test_witness_KeygenKeepsAnAcceptedP :
    (∃ s : State, (s.phase = .kgP ∧ s.env.answers = 9 :: [2, 3]) ∧ 2 ^ (s.h.toNat - 1) ≤ 9 ∧ 9 < 2 ^ s.h.toNat ∧
      pTest 9 s.rounds.toNat { s.env with answers := [2, 3] } = .ok (false, { s.env with answers := [] })) ∧
    (∃ s : State, (s.phase = .kgP ∧ s.env.answers = 13 :: [2]) ∧ 2 ^ (s.h.toNat - 1) ≤ 13 ∧ 13 < 2 ^ s.h.toNat ∧
      pTest 13 s.rounds.toNat { s.env with answers := [2] } = .ok (true, { s.env with answers := [] })) :=
  ⟨⟨answering (generating .kgP 8 0 0) [9, 2, 3], by decide, by decide, by decide, rfl⟩,
    ⟨answering (generating .kgP 8 0 0) [13, 2], by decide, by decide, by decide, rfl⟩⟩

/-- The candidates 9 (rejected) and 11 (accepted by 3). -/
theorem test_witness_KeygenKeepsAnAcceptedQ :
    (∃ s : State, (s.phase = .kgQ ∧ s.env.answers = 9 :: [2, 3]) ∧ 2 ^ (s.h.toNat - 1) ≤ 9 ∧ 9 < 2 ^ s.h.toNat ∧
      pTest 9 s.rounds.toNat { s.env with answers := [2, 3] } = .ok (false, { s.env with answers := [] })) ∧
    (∃ s : State, (s.phase = .kgQ ∧ s.env.answers = 11 :: [3]) ∧ 2 ^ (s.h.toNat - 1) ≤ 11 ∧ 11 < 2 ^ s.h.toNat ∧
      pTest 11 s.rounds.toNat { s.env with answers := [3] } = .ok (true, { s.env with answers := [] })) :=
  ⟨⟨answering (generating .kgQ 8 13 0) [9, 2, 3], by decide, by decide, by decide, rfl⟩,
    ⟨answering (generating .kgQ 8 13 0) [11, 3], by decide, by decide, by decide, rfl⟩⟩

/-- `13 * 11 = 143` has 8 bits; `8 * 9 = 72` has 7. -/
theorem test_witness_KeygenRestartsOnAWrongLength :
    (∃ s : State, s.phase = .kgCheck ∧ s.l ≠ 0 ∧ 2 ^ (s.l.toNat - 1) ≤ s.cp * s.cq) ∧
    (∃ s : State, s.phase = .kgCheck ∧ s.l ≠ 0 ∧ s.cp * s.cq < 2 ^ (s.l.toNat - 1)) :=
  ⟨⟨generating .kgCheck 8 13 11, by decide⟩, ⟨generating .kgCheck 8 8 9, by decide⟩⟩

/-- R79 (c): `p = 917519` shares the factor 65537 with φ; `p = 13, q = 11` do not. -/
theorem test_witness_KeygenDerivesTheExponentsAndWritesTheKey :
    (∃ s : State, s.phase = .kgDerive ∧ Nat.gcd 65537 ((s.cp - 1) * (s.cq - 1)) ≠ 1) ∧
    (∃ s : State, s.phase = .kgDerive ∧ Nat.gcd 65537 ((s.cp - 1) * (s.cq - 1)) = 1) :=
  ⟨⟨generating .kgDerive 40 917519 1048573, by decide⟩, ⟨generating .kgDerive 8 13 11, by decide⟩⟩

theorem test_witness_KeygenOfTwoBitsNeverCompletes :
    (∃ s : State, (s.phase = .kgShape ∧ s.l = 2 ∧ s.h = 1) ∧
      (next? (exec (.keygen 2) s)).isSome = true) ∧
    (∃ s : State, s.phase = .kgShape ∧ s.l = 2 ∧ s.h = 1 ∧ s.env.pending = [] ∧ s.env.resetIn = false ∧
      s.env.answers = [] ∧ s.env.rngSilent = false) :=
  ⟨⟨answering (generating .kgShape 2 0 0) [1, 1], by decide, by decide⟩, ⟨generating .kgShape 2 0 0, by decide⟩⟩

/-- The invariant holds in the states the witnesses below use. -/
theorem test_invariant_generating4 : BlockInvariant (generating .kgDerive 4 3 3) :=
  ⟨by decide, by decide, by decide, by decide, by decide, by decide, by decide, by decide, by decide, by decide⟩

theorem test_invariant_generating8 : BlockInvariant (generating .kgDerive 8 13 11) :=
  ⟨by decide, by decide, by decide, by decide, by decide, by decide, by decide, by decide, by decide, by decide⟩

theorem test_invariant_loaded : BlockInvariant (loaded 3 5 7) :=
  ⟨by decide, by decide, by decide, by decide, by decide, by decide, by decide, by decide, by decide, by decide⟩

theorem test_witness_KeygenOfFourBitsYieldsNine :
    ∃ s : State, BlockInvariant s ∧ s.phase = .kgDerive ∧ s.l = 4 :=
  ⟨generating .kgDerive 4 3 3, test_invariant_generating4, by decide⟩

theorem test_witness_ShortKeysAlwaysDerive :
    ∃ s : State, BlockInvariant s ∧ s.phase = .kgDerive ∧ s.l.toNat < 36 :=
  ⟨generating .kgDerive 8 13 11, test_invariant_generating8, by decide⟩

/-- Each of the four has a completing step that changes R. -/
theorem test_witness_ArithmeticCommandsFrame :
    (∃ s t : State, exec .montmul s = .next t ∧ t.r ≠ s.r) ∧ (∃ s t : State, exec .modexp s = .next t ∧ t.r ≠ s.r) ∧
    (∃ s t : State, exec .gcd s = .next t ∧ t.r ≠ s.r) ∧ (∃ s t : State, exec .modinv s = .next t ∧ t.r ≠ s.r) :=
  ⟨⟨running 1 3 5 7, _, rfl, by decide⟩, ⟨running 2 4 13 497, _, rfl, by decide⟩,
    ⟨running 3 12 18 0, _, rfl, by decide⟩, ⟨running 5 3 0 7, _, rfl, by decide⟩⟩

theorem test_witness_JacobiFrame : ∃ s t : State, exec .jacobi s = .next t ∧ t.jac ≠ s.jac :=
  ⟨running 4 1001 0 9907, _, rfl, by decide⟩

theorem test_witness_PrimetestFrame : ∃ s t : State, exec .primetest s = .next t ∧ t.prime ≠ s.prime :=
  ⟨answering (testing .ptTrial 7 1) [3], _, rfl, by decide⟩

theorem test_witness_KeygenFrame : ∃ s t : State, exec (.keygen 8) s = .next t ∧ t.kn ≠ s.kn :=
  ⟨generating .kgDerive 8 13 11, _, rfl, by decide⟩

theorem test_witness_KeyLoadFrame :
    (∃ s t : State, exec .ldkeyPub s = .next t ∧ t.b ≠ s.b) ∧ (∃ s t : State, exec .ldkeyPriv s = .next t ∧ t.m ≠ s.m) :=
  ⟨⟨{ keyed with phase := .exec, opc := 8 }, _, rfl, by decide⟩,
    ⟨{ keyed with phase := .exec, opc := 9 }, _, rfl, by decide⟩⟩

theorem test_witness_HostReadChangesNothing :
    ∃ s : State, s.env.pending = .hostRead (portIndex 0x3FFC) :: [] ∧ s.env.resetIn = false :=
  ⟨(running 2 3 5 7).withPending [.hostRead (portIndex 0x3FFC)], by decide⟩

/-- The last word that exists and the first that does not, of a 64-bit register that is full. -/
theorem test_witness_WindowWordsAreTheLimbsOfTheRegister :
    (bigRegOf 0 = some .A ∧ bigRegOf 8 = some .KD ∧ 255 < 256) ∧
    (∃ s : State, ConfigOk s ∧ s.big .A < 2 ^ s.kmax ∧ s.phase = .idle ∧ 1 < s.lw ∧ s.lw ≤ 2) :=
  ⟨by decide, ⟨{ base64 with a := 0xFFFFFFFFFFFFFFFF }, by decide⟩⟩

/-- Both ends of each reserved range, and words that differ in reserved bits only. -/
theorem test_witness_ReservedAndReadOnlyWritesAreIgnored :
    (4 * (portIndex 0x0020).val = 0x0020 ∧ 4 * (portIndex 0x0FFC).val = 0x0FFC ∧
      4 * (portIndex 0x3400).val = 0x3400 ∧ 4 * (portIndex 0x1C00).val = 0x1C00) ∧
    (∃ s : State, s.lw ≤ ((portIndex 0x1008).val - 0x400) % 0x100) ∧
    ((0xFFFFFFFF : Word).getLsbD 0 = (0x00000001 : Word).getLsbD 0 ∧ 4 * (portIndex 0x0010).val = 0x0010) ∧
    ((0xFFFFFFF5 : Word).getLsbD 1 = (0x00000000 : Word).getLsbD 1 ∧
      (0xFFFFFFF5 : Word).getLsbD 3 = (0x00000000 : Word).getLsbD 3 ∧ 4 * (portIndex 0x0004).val = 0x0004) :=
  ⟨by decide, ⟨base64, by decide⟩, by decide, by decide⟩

theorem test_witness_HostWriteFollowsItsTarget :
    (∃ s : State, s.phase ≠ .idle) ∧ (∃ s : State, s.phase = .idle) ∧
    (0x1000 ≤ 4 * (portIndex 0x1BFC).val ∧ 4 * (portIndex 0x1BFC).val < 0x1C00) :=
  ⟨⟨running 2 3 5 7, by decide⟩, ⟨base, by decide⟩, by decide⟩

theorem test_witness_IrqIsEnabledCompletion :
    (∃ t : State, hostWrite { base with done := true } (portIndex 0x0010) 1 = .next t) ∧
    (∃ t : State, hostWrite { base with done := true, ie := true } (portIndex 0x0004) 0x00000002 = .next t) ∧
    (∃ s t : State, s.phase = .idle ∧ s.irq = true ∧ exec .modexp s = .next t ∧ t.phase ≠ .idle) :=
  ⟨⟨_, rfl⟩, ⟨_, rfl⟩, ⟨{ loaded 3 5 7 with done := true, ie := true }, _, by decide, by decide, rfl, by decide⟩⟩

theorem test_witness_ReadsAfterDoneAreSettled :
    ∃ s t : State, BlockInvariant s ∧ s.done = true ∧ step s = .next t ∧
      s.env.pending.head? ≠ some .resetAssert ∧ ∀ q w, s.env.pending.head? ≠ some (.hostWrite q w) :=
  ⟨{ loaded 3 5 7 with done := true, env := { Env.quiet with pending := [.hostRead (portIndex 0x1C00)] } }, _,
    ⟨by decide, by decide, by decide, by decide, by decide, by decide, by decide, by decide, by decide, by decide⟩,
    by decide, rfl, by decide, fun _ _ => by simp⟩

theorem test_witness_WaitPollsStatusUntilDone :
    (∃ s : State, s.env.pending = .hostWait :: [] ∧ s.env.resetIn = false ∧ s.done = true) ∧
    (∃ s : State, s.env.pending = .hostWait :: [] ∧ s.env.resetIn = false ∧ s.done = false) :=
  ⟨⟨({ base with done := true } : State).withPending [.hostWait], by decide⟩,
    ⟨(running 2 3 5 7).withPending [.hostWait], by decide⟩⟩

/-- A full 64-bit register, the largest value of the width. -/
theorem test_witness_WrbAndRdbMoveTheWholeRegister :
    (∃ s : State, ConfigOk s ∧ s.env.resetIn = false ∧ s.phase = .idle ∧ 2 ^ 64 - 1 < 2 ^ s.kmax ∧
      s.big .A < 2 ^ s.kmax ∧ s.env.pending = scriptWrb s.lw .A (2 ^ 64 - 1) ++ [.hostWait]) ∧
    (∃ s : State, ConfigOk s ∧ s.env.resetIn = false ∧ s.env.pending = scriptRdb s.lw .KD ++ []) :=
  ⟨⟨({ base64 with a := 2 ^ 64 - 2 } : State).withPending (scriptWrb 2 .A (2 ^ 64 - 1) ++ [.hostWait]), by decide⟩,
    ⟨base64.withPending (scriptRdb 2 .KD ++ []), by decide⟩⟩

theorem test_witness_ResetPutsEveryPieceOfStateBack :
    (∃ s : State, s.env.pending = .resetAssert :: [] ∧ s.phase ≠ .idle) ∧
    (∃ s : State, s.env.resetIn = true ∧ s.env.pending = .sequencer :: []) ∧
    (∃ s : State, s.env.resetIn = true ∧ s.env.pending = []) ∧
    (∃ s : State, s.env.resetIn = true ∧ s.env.pending = .hostWrite (portIndex 0x0000) 0x00000003 :: []) ∧
    (∃ s : State, s.env.resetIn = true ∧ s.env.pending = .hostRead (portIndex 0x001C) :: []) ∧
    (∃ s : State, s.env.pending = .resetRelease :: []) :=
  ⟨⟨(running 2 3 5 7).withPending [.resetAssert], by decide⟩,
    ⟨(base.setResetIn true).withPending [.sequencer], by decide⟩, ⟨base.setResetIn true, by decide⟩,
    ⟨(base.setResetIn true).withPending [.hostWrite (portIndex 0x0000) 0x00000003], by decide⟩,
    ⟨(base.setResetIn true).withPending [.hostRead (portIndex 0x001C)], by decide⟩,
    ⟨(base.setResetIn true).withPending [.resetRelease], by decide⟩⟩

/-- The first draw of a step: an answer one above the range, one below it, and no answer. -/
theorem test_witness_DrawsOutsideTheContract :
    (∃ s : State, (s.current = some .primetest ∧ s.request = some (.range 2 8) ∧ s.env.answers = 9 :: []) ∧
      (Request.range 2 8).low ≤ (Request.range 2 8).high ∧ (Request.range 2 8).high < 9) ∧
    (∃ s : State, (s.current = some (.keygen 8) ∧ s.request = some (.bits 4) ∧ s.env.answers = 7 :: []) ∧
      (Request.bits 4).low ≤ (Request.bits 4).high ∧ 7 < (Request.bits 4).low) ∧
    (∃ s : State, s.current = some (.keygen 8) ∧ s.request = some (.bits 4) ∧ s.env.answers = [] ∧
      s.env.rngSilent = true) :=
  ⟨⟨answering (testing .ptTrial 9 5) [9], by decide, by decide, by decide⟩,
    ⟨answering (generating .kgP 8 0 0) [7], by decide, by decide, by decide⟩,
    ⟨(generating .kgQ 8 13 0).setSilent true, by decide⟩⟩

/-- The second draw of KG_SHAPE one below the range, one above it and absent; in KG_P and KG_Q a witness of 9 one below the
range and one above it after the failed witness 2, and absent after it and at once. -/
theorem test_witness_LaterDrawsOutsideTheContract :
    (∃ s : State, (s.phase = .kgShape ∧ s.env.answers = 8 :: 7 :: []) ∧ 2 ^ (s.h.toNat - 1) ≤ 8 ∧
      8 < 2 ^ s.h.toNat ∧ 7 < 2 ^ (s.h.toNat - 1)) ∧
    (∃ s : State, (s.phase = .kgShape ∧ s.env.answers = 15 :: 16 :: []) ∧ 2 ^ (s.h.toNat - 1) ≤ 15 ∧
      15 < 2 ^ s.h.toNat ∧ 2 ^ s.h.toNat ≤ 16) ∧
    (∃ s : State, (s.phase = .kgShape ∧ s.env.answers = [8] ∧ s.env.rngSilent = true) ∧
      2 ^ (s.h.toNat - 1) ≤ 8 ∧ 8 < 2 ^ s.h.toNat) ∧
    ((3 ≤ 9 ∧ 9 % 2 = 1) ∧ ∀ w ∈ [2], 2 ≤ w ∧ w ≤ 9 - 1 ∧ trial 9 w = false) ∧
    (∃ s : State, (s.phase = .kgP ∧ s.env.answers = 9 :: ([2] ++ 1 :: []) ∧ [2].length < s.rounds.toNat) ∧
      2 ^ (s.h.toNat - 1) ≤ 9 ∧ 9 < 2 ^ s.h.toNat ∧ 1 < 2) ∧
    (∃ s : State, (s.phase = .kgQ ∧ s.env.answers = 9 :: ([2] ++ 9 :: []) ∧ [2].length < s.rounds.toNat) ∧
      2 ^ (s.h.toNat - 1) ≤ 9 ∧ 9 < 2 ^ s.h.toNat ∧ 9 - 1 < 9) ∧
    (∃ s : State, (s.phase = .kgP ∧ s.env.answers = 9 :: [2] ∧ s.env.rngSilent = true ∧
      [2].length < s.rounds.toNat) ∧ 2 ^ (s.h.toNat - 1) ≤ 9 ∧ 9 < 2 ^ s.h.toNat) ∧
    (∃ s : State, (s.phase = .kgQ ∧ s.env.answers = 9 :: [] ∧ s.env.rngSilent = true ∧
      ([] : List Nat).length < s.rounds.toNat) ∧ 2 ^ (s.h.toNat - 1) ≤ 9 ∧ 9 < 2 ^ s.h.toNat) :=
  ⟨⟨answering (generating .kgShape 8 0 0) [8, 7], by decide, by decide, by decide, by decide⟩,
    ⟨answering (generating .kgShape 8 0 0) [15, 16], by decide, by decide, by decide, by decide⟩,
    ⟨answering ((generating .kgShape 8 0 0).setSilent true) [8], by decide, by decide, by decide⟩,
    by decide,
    ⟨answering (generating .kgP 8 0 0) [9, 2, 1], by decide, by decide, by decide, by decide⟩,
    ⟨answering (generating .kgQ 8 13 0) [9, 2, 9], by decide, by decide, by decide, by decide⟩,
    ⟨answering ((generating .kgP 8 0 0).setSilent true) [9, 2], by decide, by decide, by decide⟩,
    ⟨answering ((generating .kgQ 8 13 0).setSilent true) [9], by decide, by decide, by decide⟩⟩

theorem test_witness_AnswersReachOnlyAPendingDraw :
    (∃ s : State, s.env.pending = .rngAnswer 8 :: [] ∧ s.request.isSome = true ∧ s.env.resetIn = false) ∧
    (∃ s : State, s.env.pending = .rngAnswer 8 :: [] ∧ s.request = none) ∧
    (∃ s : State, s.env.pending = .rngAnswer 8 :: [] ∧ s.env.resetIn = true) ∧
    (∃ s t : State, s.env.pending = .resetAssert :: [] ∧ step s = .next t ∧ s.env.answers ≠ []) :=
  ⟨⟨(testing .ptTrial 9 5).withPending [.rngAnswer 8], by decide⟩, ⟨base.withPending [.rngAnswer 8], by decide⟩,
    ⟨(base.setResetIn true).withPending [.rngAnswer 8], by decide⟩,
    ⟨(answering (testing .ptTrial 9 5) [8]).withPending [.resetAssert], _, by decide, rfl, by decide⟩⟩

theorem test_witness_EveryStepKeepsTheInvariant :
    ∃ s t : State, BlockInvariant s ∧ step s = .next t ∧ t.phase ≠ s.phase :=
  ⟨generating .kgDerive 8 13 11, _, test_invariant_generating8, rfl, by decide⟩

theorem test_witness_InvariantExcludesFaults : ∃ s : State, BlockInvariant s ∧ s.phase ≠ .idle :=
  ⟨generating .kgDerive 8 13 11, test_invariant_generating8, by decide⟩

/-- DIAG = 1 meets the invariant and survives a step. -/
theorem test_witness_DiagIsNeverSet :
    ∃ s t : State, BlockInvariant s ∧ step s = .next t ∧ t.diag = true :=
  ⟨{ loaded 3 5 7 with diag := true }, _,
    ⟨by decide, by decide, by decide, by decide, by decide, by decide, by decide, by decide, by decide, by decide⟩, rfl,
    by decide⟩

theorem test_witness_ResultRegisterHasFourWriters :
    (∃ s t : State, step s = .next t ∧ t.r ≠ s.r ∧ s.phase = .exec) ∧
    (∃ s t : State, step s = .next t ∧ t.r ≠ s.r ∧ s.env.pending.head? = some .resetAssert) :=
  ⟨⟨running 2 4 13 497, _, rfl, by decide⟩,
    ⟨({ base with r := 445 } : State).withPending [.resetAssert], _, rfl, by decide⟩⟩

theorem test_witness_PrimeAndJacHaveOneWriterEach :
    (∃ s t : State, step s = .next t ∧ t.prime ≠ s.prime) ∧ (∃ s t : State, step s = .next t ∧ t.jac ≠ s.jac) :=
  ⟨⟨testing .ptCheck 2 5, _, rfl, by decide⟩, ⟨running 4 1001 0 9907, _, rfl, by decide⟩⟩

theorem test_witness_KeyFileIsWrittenByKeygenAlone :
    (∃ s t : State, step s = .next t ∧ t.kn ≠ s.kn ∧ s.phase = .kgDerive) ∧
    (∃ s t : State, step s = .next t ∧ t.kn ≠ s.kn ∧ s.phase = .idle ∧ t.phase = .kgShape) :=
  ⟨⟨generating .kgDerive 8 13 11, _, rfl, by decide⟩,
    ⟨({ keyed with rounds := 1 } : State).withPending [.hostWrite (portIndex 0x0000) 0x00080007], _, rfl, by decide⟩⟩

theorem test_witness_PbitsIsWrittenByKeyLoadsAlone :
    ∃ s t : State, step s = .next t ∧ t.pbits ≠ s.pbits :=
  ⟨{ keyed with phase := .exec, opc := 8 }, _, rfl, by decide⟩

end Sys2Proof.Tests
end

section
/-! PROOFS. The statements about the state (10_state.md): who writes R (R15), the interrupt output (R30), the reset
state (R31). Before them, what the steps of PRIMETEST and KEYGEN and the host's writes can change. -/

namespace Sys2Proof

/-- R6: KMAX is at most 8192, whatever the build. -/
theorem Config.kmax_le : Config.kmax ≤ 8192 := by
  have := Config.lwIndex.isLt
  unfold Config.kmax
  omega

end Sys2Proof

namespace Sys2Proof.Machine

/-! ### What the steps of a command in progress can change -/

section Frames
variable {s t : State}

/-- R68, R69: a step of PRIMETEST changes T, PRIME, DONE, ERR and PHASE at most. -/
theorem primetestStep_frame (h : primetestStep s = .next t) :
    t = { s with env := t.env, t := t.t, prime := t.prime, done := t.done, err := t.err, phase := t.phase } := by
  unfold primetestStep at h
  split at h
  · cases h
    split_ifs <;> rfl
  · rcases ptTrialStep_next h with rfl | ⟨w, e, -, ⟨-, rfl⟩ | ⟨-, -, rfl⟩ | ⟨-, -, rfl⟩⟩ <;> rfl

/-- R77: the last step of KEYGEN changes the key file, DIAG, DONE, ERR and PHASE at most. -/
theorem kgDeriveStep_frame (h : kgDeriveStep s = .next t) :
    t = { s with
      kn := t.kn, kp := t.kp, kq := t.kq, ke := t.ke, kd := t.kd, kbits := t.kbits,
      diag := t.diag, done := t.done, err := t.err, phase := t.phase } := by
  unfold kgDeriveStep at h
  cases h
  split <;> rfl

/-- R72 to R77: a step of KEYGEN changes CP, CQ, the key file, DIAG, DONE, ERR and PHASE at most. -/
theorem keygenStep_frame (h : keygenStep s = .next t) :
    t = { s with
      env := t.env, cp := t.cp, cq := t.cq, kn := t.kn, kp := t.kp, kq := t.kq, ke := t.ke, kd := t.kd,
      kbits := t.kbits, diag := t.diag, done := t.done, err := t.err, phase := t.phase } := by
  unfold keygenStep at h
  split at h
  · rcases kgShapeStep_next h with rfl | ⟨e, -, rfl | rfl⟩ <;> rfl
  · rcases kgPStep_next h with rfl | ⟨c, e, -, ⟨-, -, -, rfl⟩ | rfl⟩ <;> rfl
  · rcases kgQStep_next h with rfl | ⟨c, e, -, ⟨-, -, -, rfl⟩ | rfl⟩ <;> rfl
  · cases h; rfl
  · rw [kgDeriveStep_frame h]
  all_goals cases h; rfl

end Frames

/-! ### What taking a command and a host write leave unchanged -/

@[simp] theorem acceptedBy_r (i : Instr) (s : State) : (acceptedBy i s).r = s.r := by cases i <;> rfl

@[simp] theorem acceptedBy_done (i : Instr) (s : State) : (acceptedBy i s).done = s.done := by cases i <;> rfl

@[simp] theorem State.windowWrite_r (s : State) (x : BigReg) (j : Nat) (w : Word) :
    (s.windowWrite x j w).r = s.r := by
  unfold State.windowWrite
  split
  · exact State.setBig_r ..
  · rfl

/-- R36, R38: no host write reaches R. -/
@[simp] theorem State.writeTarget_r (s : State) (tg : Target) (w : Word) : (s.writeTarget tg w).r = s.r := by
  cases tg with
  | window x j =>
    simp only [State.writeTarget]
    split
    · exact State.windowWrite_r ..
    · rfl
  | rounds =>
    simp only [State.writeTarget]
    split <;> rfl
  | _ => rfl

/-! ### R and its four writers -/

/-- R15: of the commands in progress only these four change R, and only by completing without error. -/
theorem advanceOf_writes_r {i : Instr} {s t : State} (h : advanceOf i s = .next t) (hr : t.r ≠ s.r) :
    (i = .montmul ∨ i = .modexp ∨ i = .gcd ∨ i = .modinv) ∧ t.phase = .idle ∧ t.done = true ∧ t.err = .none := by
  cases i with
  | montmul => cases h; simp
  | modexp => cases h; simp
  | gcd => cases h; simp
  | modinv =>
    simp only [advanceOf, modinvStep, Host.Outcome.next.injEq] at h
    subst h
    split_ifs at hr ⊢
    · simp
    · exact absurd rfl hr
  | primetest => exact absurd (congrArg State.r (primetestStep_frame h)) hr
  | keygen L => exact absurd (congrArg State.r (keygenStep_frame h)) hr
  | jacobi => cases h; exact absurd rfl hr
  | ldkeyPub => cases h; exact absurd rfl hr
  | ldkeyPriv => cases h; exact absurd rfl hr

/-- R15: a command's transition changes R only as the completing EXEC step, without error, of one of the four. -/
theorem exec_writes_r {i : Instr} {s t : State} (h : exec i s = .next t) (hr : t.r ≠ s.r) :
    s.phase = .exec ∧ (s.opc = 0x1 ∨ s.opc = 0x2 ∨ s.opc = 0x3 ∨ s.opc = 0x5) ∧
      t.phase = .idle ∧ t.done = true ∧ t.err = .none := by
  rcases exec_next h with ⟨-, rfl⟩ | ⟨-, -, rfl⟩ | ⟨-, hc, ha⟩ | ⟨-, rfl⟩
  · exact absurd rfl hr
  · exact absurd (acceptedBy_r ..) hr
  · obtain ⟨hi, hend⟩ := advanceOf_writes_r ha hr
    obtain ⟨hp, ho⟩ := current_oneStep hc (by rintro L rfl; simp at hi) (by rintro rfl; simp at hi)
    refine ⟨hp, ?_, hend⟩
    rcases hi with rfl | rfl | rfl | rfl <;> simp [ho, Instr.opcode]
  · exact absurd rfl hr

/-- Settles O55: of the five shapes of a step only a command's transition and the reset transition reach R. -/
theorem resultRegisterHasFourWriters : Obligations.ResultRegisterHasFourWriters := by
  intro s t h hr
  rcases step_next h with ⟨e, rfl⟩ | ⟨e, i, he, -⟩ | ⟨-, e, op, rfl⟩ | ⟨e, tg, w, rfl, -⟩ | ⟨hreset, -⟩
  · exact absurd rfl hr
  · exact Or.inr (exec_writes_r (s := { s with env := e }) he hr)
  · exact absurd rfl hr
  · exact absurd (State.writeTarget_r ..) hr
  · exact Or.inl hreset

/-! ### The interrupt output -/

/-- R30: `irq` is IE AND DONE. -/
theorem State.irq_eq_true_iff {s : State} : s.irq = true ↔ s.ie = true ∧ s.done = true := by
  simp [State.irq]

/-- R30: no interrupt without DONE. -/
theorem State.irq_of_not_done {s : State} (h : s.done = false) : s.irq = false := by
  simp [State.irq, h]

/-- R38: a host write elsewhere than at CMD is the write of its target. -/
theorem hostWrite_of_ne_cmd {s : State} {p : PortIndex} {w : Word} (h : target p ≠ .cmd) :
    hostWrite s p w = .next (s.writeTarget (target p) w) := by
  rw [hostWrite, if_neg h]

theorem hostWrite_ctrl (s : State) (w : Word) : hostWrite s (portIndex 0x0010) w = .next (s.writeCtrl w) := by
  rw [hostWrite_of_ne_cmd (by simp), target_ctrl, State.writeTarget]

theorem hostWrite_status (s : State) (w : Word) : hostWrite s (portIndex 0x0004) w = .next (s.writeStatus w) := by
  rw [hostWrite_of_ne_cmd (by simp), target_status, State.writeTarget]

/-- R48: a command that is taken and enters a phase has cleared DONE. -/
theorem exec_entered_done {i : Instr} {s t : State} (hp : s.phase = .idle) (h : exec i s = .next t)
    (ht : t.phase ≠ .idle) : t.done = false := by
  rcases exec_next h with ⟨-, rfl⟩ | ⟨-, -, rfl⟩ | ⟨hbusy, -⟩ | ⟨hbusy, -⟩
  · exact absurd hp ht
  · exact acceptedBy_done ..
  · exact absurd hp hbusy
  · exact absurd hp hbusy

/-- Settles O43: each move that raises or drops the level changes IE or DONE as its own rule says. -/
theorem irqIsEnabledCompletion : Obligations.IrqIsEnabledCompletion := by
  intro s
  refine ⟨State.irq_eq_true_iff, fun code => by simp [State.irq], ?_, ?_, ?_⟩
  · intro w t h
    rw [hostWrite_ctrl] at h
    cases h
    rfl
  · intro t h
    rw [hostWrite_status] at h
    cases h
    exact State.irq_of_not_done (by simp)
  · intro i t hp h ht
    exact State.irq_of_not_done (exec_entered_done hp h ht)

/-! ### The reset state -/

/-- R24: after reset CONFIG holds KMAX, which fits its 32 bits. -/
@[simp] theorem State.reset_kmax : State.reset.kmax = Config.kmax := by
  have := Config.kmax_le
  exact (BitVec.toNat_ofNat ..).trans (Nat.mod_eq_of_lt (by omega))

/-- Settles O48: the port by `resetAt_hostRead`, CONFIG by the bound on KMAX, the rest by what the reset state is. -/
theorem resetStateReadsZeroButConfig : Obligations.ResetStateReadsZeroButConfig := by
  refine ⟨fun p => resetAt_hostRead _ _ p, State.reset_kmax, ?_, rfl, rfl, rfl, rfl, rfl, rfl, rfl, rfl⟩
  intro x
  cases x <;> rfl

end Sys2Proof.Machine
end

section
/-! PROOFS. The statements about the host port (20_memory.md): the words of a window (R34), reserved and read-only
offsets (R36), the control and status words (R33, R37). -/

namespace Sys2Proof.Machine

/-! ### The words of a window -/

/-- R34: the word of a window, as a number. -/
theorem State.windowRead_toNat (s : State) (x : BigReg) (j : Nat) :
    (s.windowRead x j).toNat = if j < s.lw then s.big x / 2 ^ (32 * j) % 2 ^ 32 else 0 := by
  unfold State.windowRead
  split
  · rw [wordOf, BitVec.toNat_ofNat]
  · rfl

/-- R34: a word that does not exist reads 0. -/
theorem State.windowRead_of_lw_le {s : State} {j : Nat} (h : s.lw ≤ j) (x : BigReg) : s.windowRead x j = 0 :=
  if_neg h.not_gt

/-- R34: a write of a word that does not exist changes nothing. -/
theorem State.windowWrite_of_lw_le {s : State} {j : Nat} (h : s.lw ≤ j) (x : BigReg) (w : Word) :
    s.windowWrite x j w = s :=
  if_neg h.not_gt

/-- R36: R and the key file, the registers numbered from 3 on, are read-only. -/
theorem State.setBig_of_readOnly {x : BigReg} (h : 3 ≤ x.index) (s : State) (v : Nat) : s.setBig x v = s := by
  cases x with
  | A | B | M => simp [BigReg.index] at h
  | _ => rfl

/-- R36: no window write reaches a read-only register. -/
theorem State.windowWrite_of_readOnly {x : BigReg} (h : 3 ≤ x.index) (s : State) (j : Nat) (w : Word) :
    s.windowWrite x j w = s := by
  rw [State.windowWrite, State.setBig_of_readOnly h, ite_self]

/-- R13: an operand register holds what is written to it. -/
theorem State.big_setBig_operand {x : BigReg} (h : x = .A ∨ x = .B ∨ x = .M) (s : State) (v : Nat) :
    (s.setBig x v).big x = v := by
  rcases h with rfl | rfl | rfl <;> rfl

/-- R34, R37: a read at a window offset. -/
theorem State.hostRead_window {n j : Nat} {x : BigReg} (h : bigRegOf n = some x) (hj : j < 256) (s : State) :
    s.hostRead (portIndex (0x1000 + 0x400 * n + 4 * j)) = s.windowRead x j := by
  rw [State.hostRead, target_window h hj, State.readTarget]

/-- R34, R38: a write at a window offset. -/
theorem hostWrite_window {n j : Nat} {x : BigReg} (h : bigRegOf n = some x) (hj : j < 256) (s : State) (w : Word) :
    hostWrite s (portIndex (0x1000 + 0x400 * n + 4 * j)) w =
      .next (if s.phase = .idle then s.windowWrite x j w else s) := by
  rw [hostWrite_of_ne_cmd (by simp [target_window h hj]), target_window h hj, State.writeTarget]

/-- R34: the low `n` words of a value sum up to its low `32*n` bits. -/
theorem sum_limbs_eq_mod (v n : Nat) :
    ∑ k ∈ Finset.range n, v / 2 ^ (32 * k) % 2 ^ 32 * 2 ^ (32 * k) = v % 2 ^ (32 * n) := by
  induction n with
  | zero => simp [Nat.mod_one]
  | succ n ih => rw [Finset.sum_range_succ, ih, Nat.mul_succ, pow_add, Nat.mod_mul, mul_comm (2 ^ (32 * n))]

/-- R34: a register within its width is the sum of the LW words its window reads. -/
theorem State.big_eq_sum_hostRead {s : State} {n : Nat} {x : BigReg} (h : bigRegOf n = some x)
    (hc : Safety.ConfigOk s) (hx : s.big x < 2 ^ s.kmax) :
    s.big x = ∑ k ∈ Finset.range s.lw,
      (s.hostRead (portIndex (0x1000 + 0x400 * n + 4 * k))).toNat * 2 ^ (32 * k) := by
  obtain ⟨hdvd, -, hle⟩ := hc
  have hkmax : 32 * s.lw = s.kmax := by unfold State.lw; omega
  have hword : ∀ k ∈ Finset.range s.lw,
      (s.hostRead (portIndex (0x1000 + 0x400 * n + 4 * k))).toNat * 2 ^ (32 * k) =
        s.big x / 2 ^ (32 * k) % 2 ^ 32 * 2 ^ (32 * k) := by
    intro k hk
    rw [Finset.mem_range] at hk
    rw [State.hostRead_window h (by omega), State.windowRead_toNat, if_pos hk]
  rw [Finset.sum_congr rfl hword, sum_limbs_eq_mod, hkmax, Nat.mod_eq_of_lt hx]

/-- Settles O39: reads by `windowRead_toNat`, the sum by `sum_limbs_eq_mod`, the written bits by `putWord_testBit`. -/
theorem windowWordsAreTheLimbsOfTheRegister : Obligations.WindowWordsAreTheLimbsOfTheRegister := by
  intro s n j x hn hj
  refine ⟨?_, State.big_eq_sum_hostRead hn, fun w => ⟨fun hlw => ?_, fun hidle hlw hx => ?_⟩⟩
  · rw [State.hostRead_window hn hj, State.windowRead_toNat]
  · rw [hostWrite_window hn hj, State.windowWrite_of_lw_le hlw, ite_self]
  · refine ⟨putWord (s.big x) j w, ?_, State.big_setBig_operand hx s _, putWord_testBit _ j w⟩
    rw [hostWrite_window hn hj, if_pos hidle, State.windowWrite, if_pos hlw]

/-! ### Reserved and read-only offsets -/

/-- R36: CMD, the reserved offsets and the window words that do not exist read 0. -/
theorem State.hostRead_eq_zero {s : State} {p : PortIndex}
    (h : 4 * p.val = 0 ∨ (0x0020 ≤ 4 * p.val ∧ 4 * p.val < 0x1000) ∨ 0x3400 ≤ 4 * p.val ∨
      (0x1000 ≤ 4 * p.val ∧ s.lw ≤ (p.val - 0x400) % 0x100)) : s.hostRead p = 0 := by
  have ht := target_at p
  unfold State.hostRead
  generalize target p = tg at ht
  cases tg with simp only [Target.At] at ht
  | cmd | reserved => rfl
  | window x j =>
    have := x.index_le
    exact State.windowRead_of_lw_le (by omega) x
  | _ => omega

/-- R36: writes to the read-only registers and windows, to reserved offsets and to window words that do not exist
change nothing. -/
theorem hostWrite_eq_self {s : State} {p : PortIndex}
    (h : 4 * p.val = 0x0008 ∨ 4 * p.val = 0x0014 ∨ 4 * p.val = 0x0018 ∨ 4 * p.val = 0x001C ∨
      (0x0020 ≤ 4 * p.val ∧ 4 * p.val < 0x1000) ∨ 0x1C00 ≤ 4 * p.val ∨
      (0x1000 ≤ 4 * p.val ∧ s.lw ≤ (p.val - 0x400) % 0x100)) (w : Word) : hostWrite s p w = .next s := by
  have ht := target_at p
  unfold hostWrite
  generalize target p = tg at ht
  cases tg with simp only [Target.At] at ht
  | err | kbits | pbits | config | reserved => rfl
  | window x j =>
    have hw : s.windowWrite x j w = s := by
      by_cases hlw : s.lw ≤ j
      · exact State.windowWrite_of_lw_le hlw x w
      · exact State.windowWrite_of_readOnly (by omega) s j w
    simp [State.writeTarget, hw]
  | _ => omega

/-- R32: a port index is that of its byte offset. -/
theorem portIndex_four_mul (p : PortIndex) : portIndex (4 * p.val) = p := by
  apply Fin.ext
  rw [portIndex_val (by omega)]
  omega

/-- Settles O40: R36 by what stands at each offset; a CTRL or STATUS write depends on the bits its rule names. -/
theorem reservedAndReadOnlyWritesAreIgnored : Obligations.ReservedAndReadOnlyWritesAreIgnored := by
  intro s p w
  refine ⟨State.hostRead_eq_zero, fun h => hostWrite_eq_self h w, fun w' hp h0 => ?_, fun w' hp h1 h3 => ?_⟩
  · rw [← portIndex_four_mul p, hp, hostWrite_ctrl, hostWrite_ctrl, State.writeCtrl, State.writeCtrl, h0]
  · rw [← portIndex_four_mul p, hp, hostWrite_status, hostWrite_status, State.writeStatus, State.writeStatus, h1, h3]

/-! ### The control and status words -/

/-- R20: STATUS as a number, field by field. -/
theorem State.statusWord_toNat (s : State) :
    s.statusWord.toNat =
      s.busy.toNat + 2 * s.done.toNat + 4 * s.errf.toNat + 8 * s.diag.toNat + 16 * s.prime.toNat +
        32 * s.jac.bits.toNat + 256 * s.phase.code.toNat + 4096 * s.opc.toNat := by
  simp only [State.statusWord, toNat_append_eq, BitVec.toNat_ofBool, BitVec.ofNat_eq_ofNat, BitVec.toNat_zero]
  omega

/-- R23: CTRL as a number. -/
theorem State.ctrlWord_toNat (s : State) : s.ctrlWord.toNat = s.ie.toNat :=
  (BitVec.toNat_setWidth_of_le (by decide)).trans (BitVec.toNat_ofBool s.ie)

/-- R21: ERR as a number. -/
theorem State.errWord_toNat (s : State) : s.errWord.toNat = s.err.code.toNat :=
  BitVec.toNat_setWidth_of_le (by decide)

/-- R20: BUSY, as the number the host reads. -/
theorem State.busy_toNat (s : State) : s.busy.toNat = if s.phase = .idle then 0 else 1 := by
  by_cases h : s.phase = .idle <;> simp [State.busy, h]

/-- R20: ERRF at its place in STATUS. -/
theorem State.four_mul_errf_toNat (s : State) : 4 * s.errf.toNat = if s.err = .none then 0 else 4 := by
  by_cases h : s.err = .none <;> simp [State.errf, h]

/-- A flag at a bit place of weight `k`. -/
theorem mul_flag_toNat (k : Nat) (b : Bool) : k * b.toNat = if b then k else 0 := by
  cases b <;> simp

/-- Settles O42: STATUS by `statusWord_toNat`, summand by summand, and the codes of JAC, PHASE and ERR by their tables;
the other words are the registers themselves. -/
theorem statusErrAndCtrlWordsHoldTheirFields : Obligations.StatusErrAndCtrlWordsHoldTheirFields := by
  intro s
  simp only [State.hostRead, target_status, target_err, target_ctrl, target_rounds, target_kbits, target_pbits,
    target_config, State.readTarget, State.statusWord_toNat, State.errWord_toNat, State.ctrlWord_toNat, and_true]
  refine ⟨?_, ?_, ?_⟩
  · rw [State.busy_toNat, State.four_mul_errf_toNat]
    simp only [mul_flag_toNat]
    congr 3
    · cases s.jac <;> rfl
    · cases s.phase <;> rfl
  · cases s.err <;> rfl
  · cases s.ie <;> rfl

end Sys2Proof.Machine
end

section
/-! PROOFS. The statements about command words (30_encoding.md): the decoder and the encoder are inverse to each other
(R45 to R47), which words are illegal (R50), and what a CMD write does (R48). -/

namespace Sys2Proof

/-! ### The encoder and the decoder are inverse to each other -/

theorem Instr.wellFormed_keygen {L : Nat} : (Instr.keygen L).wellFormed = true ↔ L < 2 ^ 16 := by
  simp [Instr.wellFormed]

/-- R46, R47: the word of KEYGEN L as a number. -/
theorem encode_keygen_toNat {L : Nat} (h : L < 2 ^ 16) : (encode (.keygen L)).toNat = L * 65536 + 7 := by
  rw [encode_toNat, Instr.immediate, BitVec.toNat_ofNat, Nat.mod_eq_of_lt h]
  rfl

/-- R45 to R47: each of the eight commands without operand has one word, KEYGEN one for each immediate. -/
theorem decode_encode {i : Instr} (h : i.wellFormed = true) : decode (encode i) = .command i := by
  cases i with
  | keygen L =>
    have hL := Instr.wellFormed_keygen.1 h
    rw [decode_eq, encode_keygen_toNat hL, if_neg (by omega), if_neg (by omega), if_pos (by omega)]
    congr
    omega
  | _ => rfl

/-- R47, R51: a word that decodes to a command is the word of that command. -/
theorem encode_of_decode {w : Word} {i : Instr} (h : decode w = .command i) :
    i.wellFormed = true ∧ encode i = w := by
  have hw := w.isLt
  rw [decode_eq] at h
  split_ifs at h with hr ho hk hm
  · cases h
    have hL : w.toNat / 65536 < 2 ^ 16 := by omega
    refine ⟨Instr.wellFormed_keygen.2 hL, BitVec.eq_of_toNat_eq ?_⟩
    rw [encode_keygen_toNat hL]
    omega
  · have hop : w.toNat % 16 = 1 ∨ w.toNat % 16 = 2 ∨ w.toNat % 16 = 3 ∨ w.toNat % 16 = 4 ∨ w.toNat % 16 = 5 ∨
        w.toNat % 16 = 6 ∨ w.toNat % 16 = 8 ∨ w.toNat % 16 = 9 := by omega
    rcases hop with hop | hop | hop | hop | hop | hop | hop | hop
    all_goals
      rw [hop] at h
      cases h
      refine ⟨rfl, BitVec.eq_of_toNat_eq ?_⟩
      simp only [encode_toNat, Instr.immediate, Instr.opcode, BitVec.ofNat_eq_ofNat, BitVec.toNat_ofNat]
      omega

theorem decode_eq_command_iff {w : Word} {i : Instr} :
    decode w = .command i ↔ i.wellFormed = true ∧ encode i = w := by
  refine ⟨encode_of_decode, ?_⟩
  rintro ⟨h, rfl⟩
  exact decode_encode h

/-- Settles O1, by `decode_encode`: the word's fields in numbers give the decoder's branch. -/
theorem decodeOfEncodeIsTheCommand : Obligations.DecodeOfEncodeIsTheCommand :=
  fun _ => decode_encode

/-- Settles O2, by `encode_of_decode`: in each branch of the decoder the fields determine the word. -/
theorem decodedCommandEncodesAsItsWord : Obligations.DecodedCommandEncodesAsItsWord :=
  fun _ _ => encode_of_decode

/-- Settles O5: each word, written bit by bit, is the encoding of its command. -/
theorem specCommandWordsDecode : Obligations.SpecCommandWordsDecode :=
  ⟨decode_encode (i := .montmul) rfl, decode_encode (i := .modexp) rfl, decode_encode (i := .gcd) rfl,
    decode_encode (i := .jacobi) rfl, decode_encode (i := .modinv) rfl, decode_encode (i := .primetest) rfl,
    decode_encode (i := .keygen 32) rfl, decode_encode (i := .ldkeyPub) rfl, decode_encode (i := .ldkeyPriv) rfl⟩

/-! ### The rows of the opcode map -/

/-- R47: a row with a full mask stands for one word, its `match`. -/
theorem encode_eq_matchWord {i : Instr} (h : i.mask = 0xFFFFFFFF#32) :
    i.wellFormed = true ∧ encode i = i.matchWord := by
  cases i with
  | keygen L => exact absurd h (by simp [Instr.mask])
  | _ => exact ⟨rfl, rfl⟩

theorem decode_eq_command_iff_mask {i : Instr} (h : i.mask = 0xFFFFFFFF#32) (w : Word) :
    decode w = .command i ↔ w &&& 0xFFFFFFFF#32 = i.matchWord := by
  obtain ⟨hwf, henc⟩ := encode_eq_matchWord h
  have hall : w &&& 0xFFFFFFFF#32 = w := BitVec.and_allOnes
  rw [decode_eq_command_iff, henc, hall]
  exact (and_iff_right hwf).trans eq_comm

/-- R47: the mask of KEYGEN's row leaves the low half of the word. -/
theorem and_lowHalf_toNat (w : Word) : (w &&& 0x0000FFFF#32).toNat = w.toNat % 65536 := by
  rw [BitVec.toNat_and]
  exact Nat.and_two_pow_sub_one_eq_mod w.toNat 16

/-- R46: KEYGEN's immediate is `w[31:16]`. -/
theorem keygen_immediate_of_decode {w : Word} {L : Nat} (h : decode w = .command (.keygen L)) :
    L = w.toNat / 65536 := by
  obtain ⟨hwf, rfl⟩ := encode_of_decode h
  rw [encode_keygen_toNat (Instr.wellFormed_keygen.1 hwf)]
  omega

theorem exists_decode_keygen_iff_mask (w : Word) :
    (∃ L, decode w = .command (.keygen L)) ↔ w &&& 0x0000FFFF#32 = 0x00000007#32 := by
  constructor
  · rintro ⟨L, h⟩
    obtain ⟨hwf, rfl⟩ := encode_of_decode h
    exact (Laws.TableRow.keygen L hwf).1
  · intro h
    have hlow : w.toNat % 65536 = 7 := by rw [← and_lowHalf_toNat, h]; rfl
    exact ⟨w.toNat / 65536, by rw [decode_eq, if_neg (by omega), if_neg (by omega), if_pos (by omega)]⟩

/-- Settles O3: the eight rows with a full mask by `decode_eq_command_iff_mask`, the row of KEYGEN by its own lemmas. -/
theorem wordEncodesCommandWhenItMatchesItsRow : Obligations.WordEncodesCommandWhenItMatchesItsRow := fun w =>
  ⟨decode_eq_command_iff_mask rfl w, decode_eq_command_iff_mask rfl w, decode_eq_command_iff_mask rfl w,
    decode_eq_command_iff_mask rfl w, decode_eq_command_iff_mask rfl w, decode_eq_command_iff_mask rfl w,
    exists_decode_keygen_iff_mask w, fun _ => keygen_immediate_of_decode,
    decode_eq_command_iff_mask rfl w, decode_eq_command_iff_mask rfl w⟩

/-! ### Illegal words -/

/-- R50: the three ways a word is illegal. -/
theorem exists_decode_illegal_iff (w : Word) :
    (∃ why, decode w = .illegal why) ↔
      (w.toNat % 16 = 0 ∨ 10 ≤ w.toNat % 16) ∨ w.toNat / 16 % 4096 ≠ 0 ∨
        (w.toNat % 16 ≠ 7 ∧ w.toNat / 65536 ≠ 0) := by
  rw [decode_eq]
  split_ifs with hr ho hk hm
  · exact iff_of_true ⟨_, rfl⟩ (Or.inr (Or.inl hr))
  · exact iff_of_true ⟨_, rfl⟩ (Or.inl ho)
  · exact iff_of_false (by simp) (by omega)
  · exact iff_of_true ⟨_, rfl⟩ (Or.inr (Or.inr ⟨hk, hm⟩))
  · exact iff_of_false (by split <;> simp) (by omega)

/-- R51: there is no third kind of word. -/
theorem exists_decode_command {w : Word} (h : ¬∃ why, decode w = .illegal why) : ∃ i, decode w = .command i := by
  cases hd : decode w with
  | command i => exact ⟨i, rfl⟩
  | illegal why => exact absurd ⟨why, hd⟩ h

/-! ### The fields of a command's word -/

/-- R45: OP and IMM16 of a word are the operation code and the immediate of the command it decodes to. -/
theorem fields_of_decode {w : Word} {i : Instr} (h : decode w = .command i) :
    w.toNat % 16 = i.opcode.toNat ∧ w.toNat / 65536 = i.immediate.toNat := by
  obtain ⟨-, rfl⟩ := encode_of_decode h
  have hop := i.opcode.isLt
  rw [encode_toNat]
  omega

theorem opcode_of_decode {w : Word} {i : Instr} (h : decode w = .command i) :
    i.opcode = BitVec.ofNat 4 (w.toNat % 16) := by
  rw [(fields_of_decode h).1]
  simp

theorem Instr.opcode_toNat_eq_six {i : Instr} : i.opcode.toNat = 6 ↔ i = .primetest := by
  cases i <;> simp [Instr.opcode]

theorem Instr.opcode_toNat_eq_seven {i : Instr} : i.opcode.toNat = 7 ↔ ∃ L, i = .keygen L := by
  cases i <;> simp [Instr.opcode]

end Sys2Proof

namespace Sys2Proof.Machine

/-! ### Taking a word from CMD -/

section CmdWrite
variable {s : State} {w : Word} {rest : List Event}
  (hw : s.env.pending = .hostWrite (portIndex 0x0000) w :: rest) (hr : s.env.resetIn = false)
include hw hr

/-- R38: a busy block ignores a CMD write. -/
theorem step_cmdWrite_busy (hp : s.phase ≠ .idle) : step s = .next (s.withPending rest) := by
  rw [step_cmdWrite hw hr, if_neg hp]

/-- R50: IllegalCommand changes DONE, ERR and OPC only. -/
theorem step_cmdWrite_illegal (hp : s.phase = .idle) (hd : ∃ why, decode w = .illegal why) :
    step s = .next { s.withPending rest with
      done := true, err := .illegalCommand, opc := BitVec.ofNat 4 (w.toNat % 16) } := by
  obtain ⟨why, hd⟩ := hd
  rw [step_cmdWrite hw hr, if_pos hp, takeWord, hd, ← opField_eq]
  simp [State.begin, State.raise, State.complete, hp]

/-- R43, R48: a legal word is taken as its command. -/
theorem step_cmdWrite_command {i : Instr} (hp : s.phase = .idle) (hd : decode w = .command i) :
    step s = exec i (s.withPending rest) := by
  rw [step_cmdWrite hw hr, if_pos hp, takeWord, hd]

/-- R48, R86: a refused command changes DONE, ERR and OPC only. -/
theorem step_cmdWrite_refused {i : Instr} (hp : s.phase = .idle) (hd : decode w = .command i)
    (hc : refusedBy i s = true) :
    step s = .next { s.withPending rest with
      done := true, err := .invalidArgument, opc := BitVec.ofNat 4 (w.toNat % 16) } := by
  rw [step_cmdWrite_command hw hr hp hd, exec_refused (s := s.withPending rest) hp (by simpa using hc),
    opcode_of_decode hd]

/-- R48: an accepted command. -/
theorem step_cmdWrite_accepted {i : Instr} (hp : s.phase = .idle) (hd : decode w = .command i)
    (hc : ¬refusedBy i s = true) :
    step s = .next (acceptedBy i { s.withPending rest with
      done := false, err := .none, opc := BitVec.ofNat 4 (w.toNat % 16) }) := by
  rw [step_cmdWrite_command hw hr hp hd, exec_accepted (s := s.withPending rest) hp (by simpa using hc),
    opcode_of_decode hd]

end CmdWrite

/-- Settles O4: the numbers by `exists_decode_illegal_iff`, the step by `step_cmdWrite_illegal`. -/
theorem illegalWordRaisesIllegalCommandOnly : Obligations.IllegalWordRaisesIllegalCommandOnly := fun w =>
  ⟨exists_decode_illegal_iff w, fun _ _ hw hr hp hd => step_cmdWrite_illegal hw hr hp hd⟩

/-- The argument checks of R48, chosen by the numbers OP and IMM16 of the word. -/
def ChecksFail (op imm : Nat) (s : State) : Prop :=
  (op = 1 ∧ (s.m = 0 ∨ s.m % 2 = 0 ∨ s.m ≤ s.a ∨ s.m ≤ s.b)) ∨ (op = 2 ∧ s.m = 0) ∨
  (op = 4 ∧ (s.m = 0 ∨ s.m % 2 = 0)) ∨ (op = 5 ∧ s.m = 0) ∨ (op = 6 ∧ s.rounds = 0) ∨
  (op = 7 ∧ (imm = 0 ∨ imm % 2 = 1 ∨ s.kmax < imm ∨ s.rounds = 0)) ∨
  (op = 8 ∧ (s.kn = 0 ∨ s.kd = 0)) ∨ (op = 9 ∧ (s.kn = 0 ∨ s.ke = 0))

/-- R48: the check that the numbers of a word choose is the check of the command it decodes to. -/
theorem refusedBy_iff_checksFail {w : Word} {i : Instr} (h : decode w = .command i) (s : State) :
    refusedBy i s = true ↔ ChecksFail (w.toNat % 16) (w.toNat / 65536) s := by
  have hop := (fields_of_decode h).1
  unfold ChecksFail
  cases i with
  | montmul => simp [hop, Instr.opcode, refusedBy, montmulRefused_iff]
  | modexp => simp [hop, Instr.opcode, refusedBy, modexpRefused_iff]
  | gcd => simp [hop, Instr.opcode, refusedBy]
  | jacobi => simp [hop, Instr.opcode, refusedBy, jacobiRefused_iff]
  | modinv => simp [hop, Instr.opcode, refusedBy, modinvRefused_iff]
  | primetest => simp [hop, Instr.opcode, refusedBy, primetestRefused_iff]
  | keygen L =>
    obtain rfl := keygen_immediate_of_decode h
    simp [hop, Instr.opcode, refusedBy, keygenRefused_iff, or_comm]
  | ldkeyPub => simp [hop, Instr.opcode, refusedBy, ldkeyPubRefused_iff]
  | ldkeyPriv => simp [hop, Instr.opcode, refusedBy, ldkeyPrivRefused_iff]

/-- R48: a one-step command has no acceptance action but the phase. -/
theorem acceptedBy_oneStep {i : Instr} (hp : i ≠ .primetest) (hk : ∀ L, i ≠ .keygen L) (s : State) :
    acceptedBy i s = s.enter .exec := by
  cases i with
  | primetest => exact absurd rfl hp
  | keygen L => exact absurd rfl (hk L)
  | _ => rfl

/-- Settles O7: the word is illegal or decodes to one command, whose check is the one its numbers choose, and an
accepted command is PRIMETEST, KEYGEN or a one-step command by its OP. -/
theorem commandWriteIsDecodedCheckedAndAccepted : Obligations.CommandWriteIsDecodedCheckedAndAccepted := by
  intro s w rest hw hr op imm illegal refused taken
  have hill : (∃ why, decode w = .illegal why) ↔ illegal :=
    (exists_decode_illegal_iff w).trans or_assoc
  have hcmd : ¬illegal → ∃ i, decode w = .command i := fun h => exists_decode_command (mt hill.1 h)
  refine ⟨step_cmdWrite_busy hw hr, fun hp h => step_cmdWrite_illegal hw hr hp (hill.2 h), ?_, ?_, ?_, ?_⟩
  · intro hp hl hc
    obtain ⟨i, hd⟩ := hcmd hl
    exact step_cmdWrite_refused hw hr hp hd ((refusedBy_iff_checksFail hd s).2 hc)
  · intro hp hl hc hop
    obtain ⟨i, hd⟩ := hcmd hl
    obtain rfl := Instr.opcode_toNat_eq_six.1 ((fields_of_decode hd).1.symm.trans hop)
    exact step_cmdWrite_accepted hw hr hp hd (mt (refusedBy_iff_checksFail hd s).1 hc)
  · intro hp hl hc hop
    obtain ⟨i, hd⟩ := hcmd hl
    obtain ⟨L, rfl⟩ := Instr.opcode_toNat_eq_seven.1 ((fields_of_decode hd).1.symm.trans hop)
    obtain rfl := keygen_immediate_of_decode hd
    exact step_cmdWrite_accepted hw hr hp hd (mt (refusedBy_iff_checksFail hd s).1 hc)
  · intro hp hl hc h6 h7
    obtain ⟨i, hd⟩ := hcmd hl
    have hop : op = i.opcode.toNat := (fields_of_decode hd).1
    rw [hop] at h6 h7
    rw [step_cmdWrite_accepted hw hr hp hd (mt (refusedBy_iff_checksFail hd s).1 hc),
      acceptedBy_oneStep (mt Instr.opcode_toNat_eq_six.2 h6) fun L hL => h7 (Instr.opcode_toNat_eq_seven.2 ⟨L, hL⟩)]
    rfl

end Sys2Proof.Machine
end

section
/-! PROOFS. The statements about MONTMUL and MODEXP (40_modarith.md): argument check, acceptance and result (R55, R57). -/

namespace Sys2Proof.Machine

section OneStep
variable {s : State}

/-- R48: a one-step command that is accepted clears DONE and ERR, records OPC and enters EXEC. -/
theorem exec_accepted_oneStep {i : Instr} (hi : i ≠ .primetest) (hk : ∀ L, i ≠ .keygen L) (hp : s.phase = .idle)
    (hc : ¬refusedBy i s = true) :
    exec i s = .next { s with done := false, err := .none, opc := i.opcode, phase := .exec } := by
  rw [exec_accepted hp (by simpa using hc), acceptedBy_oneStep hi hk, State.enter]

/-- R55: with M odd and A, B below M, MONTMUL is not refused. -/
theorem not_montmulRefused_of_reduced (hodd : s.m % 2 = 1) (ha : s.a < s.m) (hb : s.b < s.m) :
    ¬montmulRefused s = true := by
  rw [montmulRefused_iff]
  omega

/-- R55: the EXEC step of MONTMUL writes the Montgomery product and completes. -/
theorem exec_montmul_of_exec (hp : s.phase = .exec) (ho : s.opc = 0x1) :
    exec .montmul s =
      .next { s with r := montgomery s.kmax s.a s.b s.m, done := true, err := .none, phase := .idle } := by
  rw [exec_of_opc hp (by rw [ho]; rfl), advanceOf, montmulStep, State.complete]

/-- R57: the EXEC step of MODEXP writes the power modulo M and completes. -/
theorem exec_modexp_of_exec (hp : s.phase = .exec) (ho : s.opc = 0x2) :
    exec .modexp s = .next { s with r := s.a ^ s.b % s.m, done := true, err := .none, phase := .idle } := by
  rw [exec_of_opc hp (by rw [ho]; rfl), advanceOf, modexpStep, modexp_eq, State.complete]

end OneStep

/-- Settles O10: the value that the EXEC step writes is the Montgomery product, whose two properties are
`montgomery_spec`. -/
theorem montmulWritesTheMontgomeryProduct : Obligations.MontmulWritesTheMontgomeryProduct := by
  refine ⟨decode_encode (i := .montmul) rfl, fun s => ⟨?_, ?_, ?_⟩⟩
  · intro hp hargs
    exact exec_refused hp ((montmulRefused_iff s).2 hargs)
  · intro hp hodd ha hb
    exact exec_accepted_oneStep (by simp) (by simp) hp (not_montmulRefused_of_reduced hodd ha hb)
  · intro hp ho hodd _ _
    obtain ⟨hlt, hmod⟩ := montgomery_spec s.kmax s.a s.b hodd
    exact ⟨_, hlt, hmod, exec_montmul_of_exec hp ho⟩

/-- Settles O11: the check is `M = 0` alone, and the square-and-multiply of the EXEC step is the power by
`modexp_eq`. -/
theorem modexpWritesThePowerModulo : Obligations.ModexpWritesThePowerModulo := by
  refine ⟨decode_encode (i := .modexp) rfl, fun s => ⟨?_, ?_, ?_⟩⟩
  · intro hp hm
    exact exec_refused hp ((modexpRefused_iff s).2 hm)
  · intro hp hm
    exact exec_accepted_oneStep (by simp) (by simp) hp (mt (modexpRefused_iff s).1 hm)
  · intro hp ho _
    exact exec_modexp_of_exec hp ho

end Sys2Proof.Machine
end

section
/-! PROOFS. The statements about GCD, JACOBI and MODINV (41_numtheory.md): argument check, acceptance and result (R60,
R61, R63). -/

namespace Sys2Proof.Machine

/-- R62: the field JAC of a symbol that is `J(a, n)` in numbers. -/
theorem jacobi_bits {a n : Nat} (hn : n % 2 = 1) {j : Sym} (h : jacobiSym a n = j.toInt) :
    (jacobi a n).bits = j.bits :=
  congrArg Sym.bits (Sym.toInt_injective ((jacobi_eq a hn).trans h))

section ExecSteps
variable {s : State}

/-- R60: the EXEC step of GCD writes the greatest common divisor and completes. -/
theorem exec_gcd_of_exec (hp : s.phase = .exec) (ho : s.opc = 0x3) :
    exec .gcd s = .next { s with r := Nat.gcd s.a s.b, done := true, err := .none, phase := .idle } := by
  rw [exec_of_opc hp (by rw [ho]; rfl), advanceOf, gcdStep, State.complete]

/-- R61: with M odd, JACOBI is not refused. -/
theorem not_jacobiRefused_of_odd (hodd : s.m % 2 = 1) : ¬jacobiRefused s = true := by
  rw [jacobiRefused_iff]
  omega

/-- R61: the EXEC step of JACOBI writes the symbol to JAC and completes. -/
theorem exec_jacobi_of_exec (hp : s.phase = .exec) (ho : s.opc = 0x4) :
    exec .jacobi s = .next { s with jac := jacobi s.a s.m, done := true, err := .none, phase := .idle } := by
  rw [exec_of_opc hp (by rw [ho]; rfl), advanceOf, jacobiStep, State.setJac, State.complete]

/-- R63: the EXEC step of MODINV for an A with an inverse modulo M. -/
theorem exec_modinv_of_coprime (hp : s.phase = .exec) (ho : s.opc = 0x5) (hg : Nat.gcd s.a s.m = 1) :
    exec .modinv s = .next { s with r := inv s.a s.m, done := true, err := .none, phase := .idle } := by
  rw [exec_of_opc hp (by rw [ho]; rfl), advanceOf, modinvStep, if_pos hg, State.complete]

/-- R63: the EXEC step of MODINV for an A without an inverse modulo M. -/
theorem exec_modinv_of_not_coprime (hp : s.phase = .exec) (ho : s.opc = 0x5) (hg : Nat.gcd s.a s.m ≠ 1) :
    exec .modinv s = .next { s with done := true, err := .arithmeticInconsistency, phase := .idle } := by
  rw [exec_of_opc hp (by rw [ho]; rfl), advanceOf, modinvStep, if_neg hg, State.raise, State.complete]

end ExecSteps

/-- Settles O12: no pair of operands is refused, and `Nat.gcd` is the greatest in the order of divisibility. -/
theorem gcdWritesTheGreatestCommonDivisor : Obligations.GcdWritesTheGreatestCommonDivisor := by
  refine ⟨decode_encode (i := .gcd) rfl, fun s => ⟨?_, ?_⟩⟩
  · intro hp
    exact exec_accepted_oneStep (by simp) (by simp) hp (by simp [refusedBy])
  · intro hp ho
    exact ⟨_, Nat.gcd_dvd_left s.a s.b, Nat.gcd_dvd_right s.a s.b, fun _ => Nat.dvd_gcd, exec_gcd_of_exec hp ho⟩

/-- Settles O13: the symbol that the EXEC step writes is Mathlib's by `jacobi_eq`, and a symbol is determined by its
number. -/
theorem jacobiWritesTheJacobiSymbol : Obligations.JacobiWritesTheJacobiSymbol := by
  refine ⟨decode_encode (i := .jacobi) rfl, fun s => ⟨?_, ?_, ?_⟩⟩
  · intro hp hm
    exact exec_refused hp ((jacobiRefused_iff s).2 hm)
  · intro hp hodd
    exact exec_accepted_oneStep (by simp) (by simp) hp (not_jacobiRefused_of_odd hodd)
  · intro hp ho hodd
    exact ⟨jacobi s.a s.m, jacobi_bits (j := .zero) hodd, jacobi_bits (j := .plusOne) hodd,
      jacobi_bits (j := .minusOne) hodd, exec_jacobi_of_exec hp ho⟩

/-- Settles O14: the value that the EXEC step writes is the inverse by `inv_spec`; without one the step raises its
error and leaves R. -/
theorem modinvWritesTheInverseOrFails : Obligations.ModinvWritesTheInverseOrFails := by
  refine ⟨decode_encode (i := .modinv) rfl, fun s => ⟨?_, ?_, ?_, ?_⟩⟩
  · intro hp hm
    exact exec_refused hp ((modinvRefused_iff s).2 hm)
  · intro hp hm
    exact exec_accepted_oneStep (by simp) (by simp) hp (mt (modinvRefused_iff s).1 hm)
  · intro hp ho hm hg
    obtain ⟨hlt, hmod⟩ := inv_spec (Nat.pos_of_ne_zero hm) hg
    exact ⟨_, hlt, hmod, exec_modinv_of_coprime hp ho hg⟩
  · intro hp ho _ hg
    exact exec_modinv_of_not_coprime hp ho hg

end Sys2Proof.Machine
end

section
/-! PROOFS. The statements about the primality test (42_primetest.md): one trial (R65), `PTest` (R66), the PT_CHECK step
(R68) and the acceptance of every odd prime (R70). -/

namespace Sys2Proof.Machine

/-! ### One trial -/

/-- R65: a trial in terms of Mathlib's Jacobi symbol; a zero symbol matches nothing. -/
theorem trial_eq_true_iff_jacobiSym {c : Nat} (hc : c % 2 = 1) (a : Nat) :
    trial c a = true ↔
      (jacobiSym a c = 1 ∧ a ^ ((c - 1) / 2) % c = 1) ∨
      (jacobiSym a c = -1 ∧ a ^ ((c - 1) / 2) % c = c - 1) := by
  rw [trial_eq_true, ← jacobi_eq a hc]
  cases jacobi a c <;> simp [Sym.toInt, Sym.expected]

/-- Settles O17: the symbol that a trial computes is Mathlib's by `jacobi_eq`. -/
theorem trialMatchesTheNonzeroResidue : Obligations.TrialMatchesTheNonzeroResidue :=
  fun _ a _ hodd _ _ => trial_eq_true_iff_jacobiSym hodd a

/-! ### `PTest` on waiting answers -/

section Trials
variable {c r : Nat} {e : Env}

/-- R66: after witnesses that do not match, a matching one ends the test with true and takes no further answer. -/
theorem pTrials_of_match {ws rest : List Nat} {v : Nat} (ha : e.answers = ws ++ v :: rest)
    (hws : ∀ w ∈ ws, 2 ≤ w ∧ w ≤ c - 1 ∧ trial c w = false) (hl : 2 ≤ v) (hh : v ≤ c - 1)
    (hv : trial c v = true) (hr : ws.length < r) :
    pTrials c r e = .ok (true, { e with answers := rest }) := by
  obtain ⟨k, rfl⟩ : ∃ k, r = ws.length + (k + 1) := ⟨r - ws.length - 1, by omega⟩
  rw [pTrials_append ha hws, pTrials, draw_waiting (q := .range 2 (c - 1)) rfl hl hh]
  simp only [hv, if_true]

/-- R66: the index of the first match among the first r answers splits the answers there. -/
theorem pTrials_of_findIdx?_eq_some {k : Nat} (hk : (e.answers.take r).findIdx? (trial c) = some k)
    (hrange : ∀ v ∈ e.answers.take (k + 1), 2 ≤ v ∧ v ≤ c - 1) :
    pTrials c r e = .ok (true, { e with answers := e.answers.drop (k + 1) }) := by
  obtain ⟨hlt, hmatch, hfirst⟩ := List.findIdx?_eq_some_iff_getElem.1 hk
  rw [List.length_take, lt_min_iff] at hlt
  obtain ⟨hkr, hka⟩ := hlt
  have hsplit : e.answers = e.answers.take k ++ e.answers[k] :: e.answers.drop (k + 1) := by
    rw [List.cons_getElem_drop_succ, List.take_append_drop]
  obtain ⟨hl, hh⟩ := hrange e.answers[k] (List.mem_take_iff_getElem.2 ⟨k, by omega, rfl⟩)
  refine pTrials_of_match hsplit ?_ hl hh (by simpa using hmatch) (by simp; omega)
  intro w hw
  obtain ⟨hl, hh⟩ := hrange w (List.take_subset_take_left _ (by omega) hw)
  obtain ⟨j, hj, rfl⟩ := List.getElem_of_mem hw
  refine ⟨hl, hh, ?_⟩
  have hjk : j < k := by simp at hj; omega
  simpa using hfirst j hjk

/-- R66: r answers of which none matches are all taken, and the test ends with false. -/
theorem pTrials_of_findIdx?_eq_none (hlen : r ≤ e.answers.length)
    (hnone : (e.answers.take r).findIdx? (trial c) = none)
    (hrange : ∀ v ∈ e.answers.take r, 2 ≤ v ∧ v ≤ c - 1) :
    pTrials c r e = .ok (false, { e with answers := e.answers.drop r }) := by
  have hall : ∀ w ∈ e.answers.take r, 2 ≤ w ∧ w ≤ c - 1 ∧ trial c w = false := fun w hw =>
    ⟨(hrange w hw).1, (hrange w hw).2, List.findIdx?_eq_none_iff.1 hnone w hw⟩
  have hdone := pTrials_append (r := 0) (List.take_append_drop r e.answers).symm hall
  rwa [Nat.add_zero, List.length_take, Nat.min_eq_left hlen] at hdone

end Trials

/-- Settles O18: a candidate below 3 or even is decided without a draw; an odd one by its trials, split at the first
match. -/
theorem primalityTestAcceptsOnFirstMatch : Obligations.PrimalityTestAcceptsOnFirstMatch := by
  intro c r e _
  refine ⟨?_, ?_, ?_, ?_, ?_⟩
  · intro hc
    rw [pTest, if_pos hc]
  · intro hc
    rw [pTest, if_neg (by omega), if_pos hc]
  · intro hc heven
    rw [pTest, if_neg (by omega), if_neg (by omega), if_pos heven]
  · intro k hc hodd hk hrange
    rw [pTest_of_odd hc hodd, pTrials_of_findIdx?_eq_some hk hrange]
  · intro hc hodd hlen hnone hrange
    rw [pTest_of_odd hc hodd, pTrials_of_findIdx?_eq_none hlen hnone hrange]

/-! ### The steps of PRIMETEST -/

/-- R68: in PT_CHECK, PRIMETEST takes the PT_CHECK step. -/
theorem exec_primetest_of_ptCheck {s : State} (hp : s.phase = .ptCheck) : exec .primetest s = ptCheckStep s := by
  rw [exec_advance (by rw [State.current, hp]), advanceOf, primetestStep, if_pos hp]

/-- R69: in PT_TRIAL, PRIMETEST takes the PT_TRIAL step. -/
theorem exec_primetest_of_ptTrial {s : State} (hp : s.phase = .ptTrial) : exec .primetest s = ptTrialStep s := by
  rw [exec_advance (by rw [State.current, hp]), advanceOf, primetestStep, if_neg (by simp [hp])]

/-- Settles O20: the four branches of the PT_CHECK step exclude each other. -/
theorem primetestDecidesSmallAndEvenCandidates : Obligations.PrimetestDecidesSmallAndEvenCandidates := by
  intro s hp
  rw [exec_primetest_of_ptCheck hp, ptCheckStep]
  refine ⟨?_, ?_, ?_, ?_⟩
  · intro hc
    rw [if_pos hc, State.verdict, State.setPrime, State.complete]
  · intro hc
    rw [if_neg (by omega), if_pos hc, State.verdict, State.setPrime, State.complete]
  · intro hc heven
    rw [if_neg (by omega), if_neg (by omega), if_pos heven, State.verdict, State.setPrime, State.complete]
  · intro hc hodd
    rw [if_neg (by omega), if_neg (by omega), if_neg (by omega), State.enter]

/-- R69: the PT_TRIAL step completes PRIMETEST with PRIME = 1 when the witness it draws matches. -/
theorem ptTrialStep_of_match {s : State} {w : Nat} {e : Env} (hd : draw (.range 2 (s.c - 1)) s.env = .ok (w, e))
    (ht : trial s.c w = true) :
    ptTrialStep s = .next { s with env := e, prime := true, done := true, err := .none, phase := .idle } := by
  rw [ptTrialStep, hd]
  simp only [ht, if_true, settle_ok, State.verdict, State.setPrime, State.complete]

/-! ### Odd primes -/

/-- Euler's criterion for naturals: modulo an odd prime the power of a trial is the Jacobi symbol. -/
theorem natCast_pow_half_eq_jacobiSym {c : Nat} [Fact c.Prime] (hodd : c % 2 = 1) (a : Nat) :
    ((a ^ ((c - 1) / 2) : Nat) : ZMod c) = jacobiSym a c := by
  rw [← jacobiSym.legendreSym.to_jacobiSym, legendreSym.eq_pow, show (c - 1) / 2 = c / 2 by omega]
  push_cast
  rfl

/-- The residue below an odd prime that stands for the Jacobi symbol is the power of a trial. -/
theorem pow_half_mod_eq_of_jacobiSym {c a x : Nat} [Fact c.Prime] (hodd : c % 2 = 1) (hx : x < c)
    (h : (x : ZMod c) = jacobiSym a c) : a ^ ((c - 1) / 2) % c = x := by
  rw [(ZMod.natCast_eq_natCast_iff' _ _ c).1 ((natCast_pow_half_eq_jacobiSym hodd a).trans h.symm),
    Nat.mod_eq_of_lt hx]

/-- R70: modulo an odd prime every nonzero witness matches, since its symbol is 1 or -1 and the power is its residue. -/
theorem trial_of_prime {c a : Nat} (hc : c.Prime) (h2 : c ≠ 2) (ha : 0 < a) (hac : a < c) : trial c a = true := by
  have hodd : c % 2 = 1 := hc.eq_two_or_odd.resolve_left h2
  have hgcd : Int.gcd a c = 1 := (Nat.coprime_of_lt_prime ha.ne' hac hc).symm
  have : Fact c.Prime := ⟨hc⟩
  rw [trial_eq_true_iff_jacobiSym hodd]
  rcases jacobiSym.eq_one_or_neg_one hgcd with hj | hj
  · exact Or.inl ⟨hj, pow_half_mod_eq_of_jacobiSym hodd hc.one_lt (by simp [hj])⟩
  · exact Or.inr ⟨hj, pow_half_mod_eq_of_jacobiSym hodd (by omega) (by simp [hj, Nat.cast_pred hc.pos])⟩

/-- R92: a free answer, or a waiting one in the range of the request, answers the draw. -/
theorem exists_draw_ok {q : Request} {e : Env} (hq : q.low ≤ q.high)
    (h : e.answers = [] ∧ e.rngSilent = false ∨ ∃ v rest, e.answers = v :: rest ∧ q.low ≤ v ∧ v ≤ q.high) :
    ∃ w e', draw q e = .ok (w, e') := by
  rcases h with ⟨ha, hs⟩ | ⟨v, rest, ha, hl, hh⟩
  · exact ⟨_, _, draw_free ha hs hq⟩
  · exact ⟨_, _, draw_waiting ha hl hh⟩

/-- Settles O22: whatever witness in range the PT_TRIAL step draws for an odd prime matches, by Euler's criterion. -/
theorem primeCandidateIsAcceptedAtTheFirstTrial : Obligations.PrimeCandidateIsAcceptedAtTheFirstTrial := by
  intro c hprime h2
  have hge := hprime.two_le
  have htrial : ∀ a, 2 ≤ a → a ≤ c - 1 → trial c a = true := fun a hl hh =>
    trial_of_prime hprime h2 (by omega) (by omega)
  refine ⟨htrial, ?_⟩
  rintro s hp rfl hanswer
  obtain ⟨w, e, hd⟩ := exists_draw_ok (q := .range 2 (s.c - 1)) (by simp; omega) hanswer
  obtain ⟨hl, hh, -⟩ := draw_ok hd
  exact ⟨e, (exec_primetest_of_ptTrial hp).trans (ptTrialStep_of_match hd (htrial w hl hh))⟩

end Sys2Proof.Machine
end

section
/-! PROOFS. The statements about KEYGEN (43_keygen.md): the steps of its five phases (R72 to R77), the run of KEYGEN 2
(R78 (a)), and what the invariant gives in KG_DERIVE (R78 (b), R79). -/

namespace Sys2Proof.Machine

open Sys2Proof.Safety

/-! ### The steps of KEYGEN -/

section Steps
variable {s t : State}

/-- R26: KEYGEN in progress takes the step of its phase. -/
theorem exec_keygen_of_keygenPhase (hp : KeygenPhase s.phase) : exec (.keygen s.l.toNat) s = keygenStep s := by
  have hc : s.current = some (.keygen s.l.toNat) := by
    rcases hp with hp | hp | hp | hp | hp <;> simp [State.current, hp]
  rw [exec_advance hc, advanceOf]

theorem exec_keygen_of_kgShape (hp : s.phase = .kgShape) : exec (.keygen s.l.toNat) s = kgShapeStep s := by
  rw [exec_keygen_of_keygenPhase (by simp [KeygenPhase, hp]), keygenStep, hp]

theorem exec_keygen_of_kgP (hp : s.phase = .kgP) : exec (.keygen s.l.toNat) s = kgPStep s := by
  rw [exec_keygen_of_keygenPhase (by simp [KeygenPhase, hp]), keygenStep, hp]

theorem exec_keygen_of_kgQ (hp : s.phase = .kgQ) : exec (.keygen s.l.toNat) s = kgQStep s := by
  rw [exec_keygen_of_keygenPhase (by simp [KeygenPhase, hp]), keygenStep, hp]

theorem exec_keygen_of_kgCheck (hp : s.phase = .kgCheck) : exec (.keygen s.l.toNat) s = kgCheckStep s := by
  rw [exec_keygen_of_keygenPhase (by simp [KeygenPhase, hp]), keygenStep, hp]

theorem exec_keygen_of_kgDerive (hp : s.phase = .kgDerive) : exec (.keygen s.l.toNat) s = kgDeriveStep s := by
  rw [exec_keygen_of_keygenPhase (by simp [KeygenPhase, hp]), keygenStep, hp]

/-- R72: with both its draws answered the KG_SHAPE step looks at the length of their product alone. -/
theorem kgShapeStep_of_draws {x y : Nat} {e e' : Env} (hx : draw (.bits s.h.toNat) s.env = .ok (x, e))
    (hy : draw (.bits s.h.toNat) e = .ok (y, e')) :
    kgShapeStep s =
      .next { s with env := e', phase := if bitlen (x * y) = s.l.toNat then .kgP else .kgShape } := by
  rw [kgShapeStep, hx]
  simp only [hy, settle_ok, State.enter]

/-- R72, R44: the KG_SHAPE step waits for an answer, or has taken both its draws. -/
theorem kgShapeStep_next_draws (h : kgShapeStep s = .next t) :
    t = s ∨ ∃ x y e e', draw (.bits s.h.toNat) s.env = .ok (x, e) ∧ draw (.bits s.h.toNat) e = .ok (y, e') ∧
      t = { s with env := e', phase := if bitlen (x * y) = s.l.toNat then .kgP else .kgShape } := by
  rcases settle_next h with hok | ⟨-, rfl⟩
  · split at hok
    · cases hok
    · rename_i x e hx
      split at hok
      · cases hok
      · rename_i y e' hy
        cases hok
        exact Or.inr ⟨x, y, e, e', hx, hy, rfl⟩
  · exact Or.inl rfl

/-- R73, R74, R92: a waiting answer of H bits is the candidate, and the answers after it are those of its test. -/
theorem candidate_of_waiting {c : Nat} {rest : List Nat} {ok : Bool} {e : Env} (ha : s.env.answers = c :: rest)
    (hl : 2 ^ (s.h.toNat - 1) ≤ c) (hu : c < 2 ^ s.h.toNat)
    (ht : pTest c s.rounds.toNat { s.env with answers := rest } = .ok (ok, e)) :
    candidate s = .ok ((c, ok), e) := by
  have hd := draw_waiting (q := .bits s.h.toNat) ha hl (by rw [Request.high_bits]; omega)
  rw [candidate, hd]
  simp only [ht]

/-- R73: the KG_P step keeps the candidate as p exactly when its test accepts it. -/
theorem kgPStep_of_candidate {c : Nat} {ok : Bool} {e : Env} (h : candidate s = .ok ((c, ok), e)) :
    kgPStep s = .next (if ok = true then { s with env := e, cp := c, phase := .kgQ } else { s with env := e }) := by
  rw [kgPStep, h, settle_ok, State.enter]

/-- R74: the KG_Q step keeps the candidate as q exactly when its test accepts it. -/
theorem kgQStep_of_candidate {c : Nat} {ok : Bool} {e : Env} (h : candidate s = .ok ((c, ok), e)) :
    kgQStep s =
      .next (if ok = true then { s with env := e, cq := c, phase := .kgCheck } else { s with env := e }) := by
  rw [kgQStep, h, settle_ok, State.enter]

/-- R76, R77: without an inverse of e modulo φ the KG_DERIVE step raises its error and writes nothing else. -/
theorem kgDeriveStep_of_not_coprime (hg : Nat.gcd 65537 (totient s.cp s.cq) ≠ 1) :
    kgDeriveStep s = .next { s with done := true, err := .arithmeticInconsistency, phase := .idle } := by
  obtain ⟨-, hd⟩ | ⟨hg', -⟩ := derive_cases s.cp s.cq
  · rw [kgDeriveStep, hd, State.raise, State.complete]
  · exact absurd hg' hg

/-- R76, R77: with an inverse d of e modulo φ the KG_DERIVE step writes the key file whole. -/
theorem kgDeriveStep_of_coprime (hg : Nat.gcd 65537 (totient s.cp s.cq) = 1) :
    ∃ d, d < totient s.cp s.cq ∧ 65537 * d % totient s.cp s.cq = 1 % totient s.cp s.cq ∧
      kgDeriveStep s = .next { s with
        kn := s.cp * s.cq, kp := s.cp, kq := s.cq, ke := 65537, kd := d, kbits := s.l.setWidth 32,
        diag := s.diag || decide (65537 * d % totient s.cp s.cq ≠ 1), done := true, err := .none,
        phase := .idle } := by
  obtain ⟨hg', -⟩ | ⟨-, d, hlt, hmod, hd⟩ := derive_cases s.cp s.cq
  · exact absurd hg hg'
  · refine ⟨d, hlt, hmod, ?_⟩
    rw [kgDeriveStep, hd, decide_not]
    rfl

end Steps

/-- Settles O29: the two outcomes of `Derive` are the two outcomes of the KG_DERIVE step. -/
theorem keygenDerivesTheExponentsAndWritesTheKey : Obligations.KeygenDerivesTheExponentsAndWritesTheKey := by
  intro s hp
  rw [exec_keygen_of_kgDerive hp]
  exact ⟨kgDeriveStep_of_not_coprime, kgDeriveStep_of_coprime⟩

/-- Settles O26: the test of the waiting candidate decides the KG_P step. -/
theorem keygenKeepsAnAcceptedP : Obligations.KeygenKeepsAnAcceptedP := by
  intro s hp c rest ha hl hu ok e ht
  rw [exec_keygen_of_kgP hp, kgPStep_of_candidate (candidate_of_waiting ha hl hu ht)]

/-- Settles O27: the test of the waiting candidate decides the KG_Q step, and CP is not looked at. -/
theorem keygenKeepsAnAcceptedQ : Obligations.KeygenKeepsAnAcceptedQ := by
  intro s hp c rest ha hl hu ok e ht
  rw [exec_keygen_of_kgQ hp, kgQStep_of_candidate (candidate_of_waiting ha hl hu ht)]

/-- Settles O28: a bit length of L is the pair of bounds of R9, as L is not 0. -/
theorem keygenRestartsOnAWrongLength : Obligations.KeygenRestartsOnAWrongLength := by
  intro s hp hl
  have hl' : s.l.toNat ≠ 0 := fun h => hl (BitVec.eq_of_toNat_eq h)
  rw [exec_keygen_of_kgCheck hp, kgCheckStep, State.enter]
  simp only [bitlen_eq_iff hl']

/-! ### KEYGEN 2 -/

section TwoBits
variable {s : State}

/-- R78 (a): the only number of one bit is 1. -/
theorem draw_bits_one {e e' : Env} {v : Nat} (h : draw (.bits 1) e = .ok (v, e')) : v = 1 := by
  obtain ⟨hl, hh, -⟩ := draw_ok h
  simp only [Request.low_bits, Request.high_bits] at hl hh
  omega

/-- R78 (a): the product of the two draws of KEYGEN 2 has one bit, so its shape check never passes. -/
theorem bitlen_mul_ne_two_of_draw_bits_one {x y : Nat} {e f e' f' : Env} (hx : draw (.bits 1) e = .ok (x, e'))
    (hy : draw (.bits 1) f = .ok (y, f')) : bitlen (x * y) ≠ 2 := by
  rw [draw_bits_one hx, draw_bits_one hy]
  decide

/-- R78 (a): the KG_SHAPE step of KEYGEN 2 changes the environment at most. -/
theorem kgShapeStep_next_of_two_bits {t : State} (hp : s.phase = .kgShape) (hl : s.l = 2) (hh : s.h = 1)
    (h : kgShapeStep s = .next t) : t = { s with env := t.env } := by
  obtain rfl | ⟨x, y, e, e', hx, hy, rfl⟩ := kgShapeStep_next_draws h
  · rfl
  · rw [hh] at hx hy
    have hlen : bitlen (x * y) ≠ s.l.toNat := hl ▸ bitlen_mul_ne_two_of_draw_bits_one hx hy
    simp only [hlen, if_false, hp]

/-- R78 (a), R44: with an environment that answers, a step of KEYGEN 2 takes two free answers and does nothing else. -/
theorem step_of_two_bits (hp : s.phase = .kgShape) (hl : s.l = 2) (hh : s.h = 1) (hq : s.env.pending = [])
    (hr : s.env.resetIn = false) (ha : s.env.answers = []) (hs : s.env.rngSilent = false) :
    step s = .next { s with env := { s.env with drawn := s.env.drawn + 2 } } := by
  have hc : s.current = some (.keygen s.l.toNat) := by rw [State.current, hp]
  have hx := draw_free (q := .bits s.h.toNat) ha hs (by rw [hh]; decide)
  have hy := draw_free (q := .bits s.h.toNat) (e := { s.env with drawn := s.env.drawn + 1 }) ha hs
    (by rw [hh]; decide)
  have hstep := kgShapeStep_of_draws hx hy
  rw [kgShapeStep_next_of_two_bits hp hl hh hstep] at hstep
  rw [step_of_nil hq, perform_sequencer hr hc, exec_keygen_of_kgShape hp, hstep]

/-- R78 (a): a run of KEYGEN 2 with an environment that answers goes on for ever and changes the environment alone. -/
theorem run_of_two_bits (n : Nat) : ∀ {s : State}, s.phase = .kgShape → s.l = 2 → s.h = 1 → s.env.pending = [] →
    s.env.resetIn = false → s.env.answers = [] → s.env.rngSilent = false →
    ∃ e, core.run n s = .next { s with env := e } := by
  induction n with
  | zero => exact fun {s} _ _ _ _ _ _ _ => ⟨s.env, run_zero s⟩
  | succ n ih =>
    intro s hp hl hh hq hr ha hs
    rw [run_of_step (step_of_two_bits hp hl hh hq hr ha hs)]
    exact ih hp hl hh hq hr ha hs

end TwoBits

/-- Settles O30: both draws of KEYGEN 2 can only be 1, and their product is one bit short. -/
theorem keygenOfTwoBitsNeverCompletes : Obligations.KeygenOfTwoBitsNeverCompletes := by
  intro s hp hl hh
  constructor
  · intro t ht
    have hstep : kgShapeStep s = .next t := by
      rw [← exec_keygen_of_kgShape hp, hl]
      exact ht
    rw [kgShapeStep_next_of_two_bits hp hl hh hstep]
    exact ⟨hp, hl, hh⟩
  · intro hq hr ha hs n
    obtain ⟨e, hrun⟩ := run_of_two_bits n hp hl hh hq hr ha hs
    exact ⟨_, hrun, hp, rfl⟩

/-! ### The candidates that reach KG_DERIVE -/

section Candidates
variable {h : BitVec 16} {p q : Nat}

theorem lt_two_pow_of_acceptable (hp : Acceptable h p) : p < 2 ^ h.toNat := by
  rw [← hp.1]
  exact lt_two_pow_bitlen p

/-- R79 (b): beside a candidate of two bits, 2 gives a product of three bits only, so both candidates are odd. -/
theorem odd_of_acceptable_of_bitlen_mul (hp : Acceptable h p) (hq : Acceptable h q)
    (hn : bitlen (p * q) = 2 * h.toNat) : 3 ≤ p ∧ p % 2 = 1 := by
  refine hp.2.resolve_left ?_
  rintro rfl
  have hh : h.toNat = 2 := hp.1.symm
  have hq4 : q < 2 ^ 2 := hh ▸ lt_two_pow_of_acceptable hq
  have := bitlen_le_of_lt_two_pow (show 2 * q < 2 ^ 3 by omega)
  omega

/-- R79 (c): 65537 has one nonzero multiple below `2^17`, itself, which is odd; so it does not divide `p - 1` for an
odd p. -/
theorem coprime_pred_of_odd (h3 : 3 ≤ p) (hodd : p % 2 = 1) (hlt : p < 2 ^ 17) : Nat.Coprime 65537 (p - 1) := by
  rw [Nat.Prime.coprime_iff_not_dvd (by norm_num)]
  rintro ⟨k, hk⟩
  obtain rfl : k = 1 := by clear hodd; omega
  omega

end Candidates

section Derive
variable {s : State}

/-- R79 (b): what the invariant says of L, H, CP and CQ in KG_DERIVE. -/
theorem kgDerive_of_blockInvariant (hs : BlockInvariant s) (hp : s.phase = .kgDerive) :
    s.l.toNat = 2 * s.h.toNat ∧ s.h ≠ 0 ∧ Acceptable s.h s.cp ∧ Acceptable s.h s.cq ∧
      bitlen (s.cp * s.cq) = s.l.toNat := by
  obtain ⟨-, -, -, -, -, -, hphase, hcp, hcq, hn⟩ := hs
  obtain ⟨-, hl, hh, -⟩ := hphase (by simp [KeygenPhase, hp])
  exact ⟨hl, hh, hcp (by simp [hp]), hcq (by simp [hp]), hn hp⟩

/-- R79 (b): both candidates that reach KG_DERIVE are odd and at least 3. -/
theorem odd_candidates_of_blockInvariant (hs : BlockInvariant s) (hp : s.phase = .kgDerive) :
    (3 ≤ s.cp ∧ s.cp % 2 = 1) ∧ 3 ≤ s.cq ∧ s.cq % 2 = 1 := by
  obtain ⟨hl, -, hcp, hcq, hn⟩ := kgDerive_of_blockInvariant hs hp
  rw [hl] at hn
  exact ⟨odd_of_acceptable_of_bitlen_mul hcp hcq hn,
    odd_of_acceptable_of_bitlen_mul hcq hcp (by rwa [Nat.mul_comm])⟩

/-- R79 (b): φ is at least 4 in KG_DERIVE. -/
theorem four_le_totient_of_blockInvariant (hs : BlockInvariant s) (hp : s.phase = .kgDerive) :
    4 ≤ totient s.cp s.cq := by
  obtain ⟨⟨hcp, -⟩, hcq, -⟩ := odd_candidates_of_blockInvariant hs hp
  exact Nat.mul_le_mul (show 2 ≤ s.cp - 1 by omega) (show 2 ≤ s.cq - 1 by omega)

/-- R79 (c): for L below 36, φ has no factor 65537 in KG_DERIVE. -/
theorem coprime_totient_of_blockInvariant (hs : BlockInvariant s) (hp : s.phase = .kgDerive)
    (hlt : s.l.toNat < 36) : Nat.gcd 65537 (totient s.cp s.cq) = 1 := by
  obtain ⟨hl, -, hcp, hcq, -⟩ := kgDerive_of_blockInvariant hs hp
  obtain ⟨⟨hcp3, hcpodd⟩, hcq3, hcqodd⟩ := odd_candidates_of_blockInvariant hs hp
  have hpow : 2 ^ s.h.toNat ≤ 2 ^ 17 := Nat.pow_le_pow_right (by norm_num) (by omega)
  exact (coprime_pred_of_odd hcp3 hcpodd ((lt_two_pow_of_acceptable hcp).trans_le hpow)).mul_right
    (coprime_pred_of_odd hcq3 hcqodd ((lt_two_pow_of_acceptable hcq).trans_le hpow))

/-- R77, R79 (b): as φ is above 1, the self-check holds whenever e has an inverse, and DIAG is left as it is. -/
theorem kgDeriveStep_of_blockInvariant (hs : BlockInvariant s) (hp : s.phase = .kgDerive)
    (hg : Nat.gcd 65537 (totient s.cp s.cq) = 1) :
    ∃ d, d < totient s.cp s.cq ∧ 65537 * d % totient s.cp s.cq = 1 ∧
      kgDeriveStep s = .next { s with
        kn := s.cp * s.cq, kp := s.cp, kq := s.cq, ke := 65537, kd := d, kbits := s.l.setWidth 32,
        done := true, err := .none, phase := .idle } := by
  have hphi := four_le_totient_of_blockInvariant hs hp
  obtain ⟨d, hd, hmod, hstep⟩ := kgDeriveStep_of_coprime hg
  rw [Nat.mod_eq_of_lt (by omega : 1 < totient s.cp s.cq)] at hmod
  refine ⟨d, hd, hmod, ?_⟩
  simpa [hmod] using hstep

/-- R79 (a): the key that the last step of KEYGEN writes meets the key-file invariant (b) of R18. -/
theorem exists_kgDeriveStep_keySet (hs : BlockInvariant s) (hp : s.phase = .kgDerive)
    (hg : Nat.gcd 65537 (totient s.cp s.cq) = 1) :
    ∃ t, kgDeriveStep s = .next t ∧ t.err = .none ∧ t.done = true ∧ KeySet t := by
  obtain ⟨hlh, hh, ⟨hcp, -⟩, ⟨hcq, -⟩, hn⟩ := kgDerive_of_blockInvariant hs hp
  obtain ⟨d, hd, hmod, hstep⟩ := kgDeriveStep_of_blockInvariant hs hp hg
  have hbits : (s.l.setWidth 32).toNat = 2 * s.h.toNat := by
    rw [BitVec.toNat_setWidth_of_le (by norm_num), hlh]
  have hh0 : s.h.toNat ≠ 0 := fun h0 => hh (BitVec.eq_of_toNat_eq h0)
  refine ⟨_, hstep, rfl, rfl, rfl, ?_, ?_, ?_, ?_, ?_, rfl, hg, hd, hmod⟩
  · rw [hbits, hn, hlh]
  · rw [hbits, hcp]; omega
  · rw [hbits, hcq]; omega
  · rw [hbits]; omega
  · intro h0
    have hzero : (s.l.setWidth 32).toNat = 0 := congrArg BitVec.toNat h0
    omega

end Derive

/-- Settles O31: two bits leave 3 alone for p and for q, so φ is 4 and the inverse of 65537 modulo 4 is 1. -/
theorem keygenOfFourBitsYieldsNine : Obligations.KeygenOfFourBitsYieldsNine := by
  intro s hs hp hl
  obtain ⟨hlh, -, hcp, hcq, -⟩ := kgDerive_of_blockInvariant hs hp
  obtain ⟨⟨hcp3, -⟩, hcq3, -⟩ := odd_candidates_of_blockInvariant hs hp
  have hl4 : s.l.toNat = 4 := by rw [hl]; rfl
  have hpow : 2 ^ s.h.toNat = 4 := by rw [show s.h.toNat = 2 by omega]; rfl
  have hcpeq : s.cp = 3 := by have := lt_two_pow_of_acceptable hcp; omega
  have hcqeq : s.cq = 3 := by have := lt_two_pow_of_acceptable hcq; omega
  obtain ⟨d, hd, hmod, hstep⟩ := kgDeriveStep_of_blockInvariant hs hp
    (coprime_totient_of_blockInvariant hs hp (by omega))
  simp only [hcpeq, hcqeq, totient] at hd hmod
  obtain rfl : d = 1 := by omega
  rw [← hl4, exec_keygen_of_kgDerive hp, hstep, hcpeq, hcqeq, hl]
  rfl

/-- Settles O32: H is at most 17, so 65537 divides neither `p - 1` nor `q - 1`, and a key is written. -/
theorem shortKeysAlwaysDerive : Obligations.ShortKeysAlwaysDerive := by
  intro s hs hp hlt
  rw [exec_keygen_of_kgDerive hp]
  exact exists_kgDeriveStep_keySet hs hp (coprime_totient_of_blockInvariant hs hp hlt)

end Sys2Proof.Machine
end

section
/-! PROOFS. The statements about LDKEY.PUB and LDKEY.PRIV (44_keyload.md): argument check, acceptance and the loaded
operands (R80, R81). -/

namespace Sys2Proof.Machine

section Projections
variable {s : State}

/-- R80, R81, R49: what a completed projection leaves, for either exponent. -/
theorem State.complete_project (s : State) (x : Nat) :
    (s.project x).complete .none =
      { s with m := s.kn, b := x, pbits := s.kbits, done := true, err := .none, phase := .idle } := rfl

/-- R80: the EXEC step of LDKEY.PUB loads the derived exponent and completes. -/
theorem exec_ldkeyPub_of_exec (hp : s.phase = .exec) (ho : s.opc = 0x8) :
    exec .ldkeyPub s =
      .next { s with m := s.kn, b := s.kd, pbits := s.kbits, done := true, err := .none, phase := .idle } := by
  rw [exec_of_opc hp (by rw [ho]; rfl), advanceOf, ldkeyPubStep, State.complete_project]

/-- R81: the EXEC step of LDKEY.PRIV loads the fixed exponent and completes. -/
theorem exec_ldkeyPriv_of_exec (hp : s.phase = .exec) (ho : s.opc = 0x9) :
    exec .ldkeyPriv s =
      .next { s with m := s.kn, b := s.ke, pbits := s.kbits, done := true, err := .none, phase := .idle } := by
  rw [exec_of_opc hp (by rw [ho]; rfl), advanceOf, ldkeyPrivStep, State.complete_project]

end Projections

/-- Settles O15: the check reads KN and KD alone, and the EXEC step is the projection on KD. -/
theorem ldkeyPubLoadsTheDerivedExponent : Obligations.LdkeyPubLoadsTheDerivedExponent := by
  refine ⟨decode_encode (i := .ldkeyPub) rfl, fun s => ⟨?_, ?_, ?_⟩⟩
  · intro hp hkey
    exact exec_refused hp ((ldkeyPubRefused_iff s).2 hkey)
  · intro hp hn hd
    exact exec_accepted_oneStep (by simp) (by simp) hp (mt (ldkeyPubRefused_iff s).1 (not_or.2 ⟨hn, hd⟩))
  · intro hp ho
    exact exec_ldkeyPub_of_exec hp ho

/-- Settles O16: the check reads KN and KE alone, and the EXEC step is the projection on KE. -/
theorem ldkeyPrivLoadsTheFixedExponent : Obligations.LdkeyPrivLoadsTheFixedExponent := by
  refine ⟨decode_encode (i := .ldkeyPriv) rfl, fun s => ⟨?_, ?_, ?_⟩⟩
  · intro hp hkey
    exact exec_refused hp ((ldkeyPrivRefused_iff s).2 hkey)
  · intro hp hn he
    exact exec_accepted_oneStep (by simp) (by simp) hp (mt (ldkeyPrivRefused_iff s).1 (not_or.2 ⟨hn, he⟩))
  · intro hp ho
    exact exec_ldkeyPriv_of_exec hp ho

end Sys2Proof.Machine
end

section
/-! PROOFS. The invariant of the block (00_scope.md, 10_state.md, 43_keygen.md): every step keeps it, it holds after
reset, and it excludes faults (R26) and a change of what the host reads after DONE (R41). -/

namespace Sys2Proof.Machine

open Sys2Proof.Safety

/-! ### The clauses of the invariant -/

section Clauses
variable {s : State}

/-- R20, R25: in the idle phase the invariant is about the registers alone. -/
theorem blockInvariant_of_idle (hp : s.phase = .idle) (hc : ConfigOk s) (hw : WidthsOk s) (hk : KeyOk s) :
    BlockInvariant s := by
  refine ⟨hc, hw, hk, ?_, ?_, ?_, ?_⟩
  · simp [BusyOk, hp]
  · simp [ExecOk, hp]
  · simp [PrimetestOk, hp]
  · simp [KeygenOk, KeygenPhase, hp]

/-- R49: the end of a command leaves the invariant about the registers. -/
theorem blockInvariant_complete (hs : BlockInvariant s) (code : ErrCode) : BlockInvariant (s.complete code) := by
  obtain ⟨hc, hw, hk, -⟩ := hs
  exact blockInvariant_of_idle rfl hc hw hk

/-- R14, R15: a result within the width of R completes a command. -/
theorem blockInvariant_complete_r (hs : BlockInvariant s) {x : Nat} (hx : x < 2 ^ s.kmax) :
    BlockInvariant ({ s with r := x }.complete .none) := by
  obtain ⟨hc, ⟨ha, hb, hm, -, hkey⟩, hk, -⟩ := hs
  exact blockInvariant_of_idle rfl hc ⟨ha, hb, hm, hx, hkey⟩ hk

/-- R80, R81: a projection copies values of the key file, which are within the width. -/
theorem blockInvariant_complete_project (hs : BlockInvariant s) {x : Nat} (hx : x < 2 ^ s.kmax) :
    BlockInvariant ((s.project x).complete .none) := by
  obtain ⟨hc, ⟨ha, -, -, hr, hkn, hkey⟩, hk, -⟩ := hs
  exact blockInvariant_of_idle rfl hc ⟨ha, hx, hkn, hr, hkn, hkey⟩ hk

/-- R26, R48: the EXEC clause of the invariant: OPC names a one-step command whose check does not refuse. -/
theorem execOk_iff :
    ExecOk s ↔ (s.phase = .exec → ∃ i, oneStepCommand s.opc = some i ∧ refusedBy i s = false) := by
  refine imp_congr_right fun _ => ⟨?_, ?_⟩
  · rintro (⟨ho, hr⟩ | ⟨ho, hr⟩ | ho | ⟨ho, hr⟩ | ⟨ho, hr⟩ | ⟨ho, hr⟩ | ⟨ho, hr⟩)
    · exact ⟨.montmul, by rw [ho]; rfl, hr⟩
    · exact ⟨.modexp, by rw [ho]; rfl, hr⟩
    · exact ⟨.gcd, by rw [ho]; rfl, rfl⟩
    · exact ⟨.jacobi, by rw [ho]; rfl, hr⟩
    · exact ⟨.modinv, by rw [ho]; rfl, hr⟩
    · exact ⟨.ldkeyPub, by rw [ho]; rfl, hr⟩
    · exact ⟨.ldkeyPriv, by rw [ho]; rfl, hr⟩
  · rintro ⟨i, ho, hr⟩
    have hop := opcode_of_oneStepCommand ho
    cases i with
    | primetest => exact absurd ho oneStepCommand_ne_primetest
    | keygen L => exact absurd ho oneStepCommand_ne_keygen
    | _ => simp_all [Instr.opcode, refusedBy]

/-- R48: the check of the one-step command in progress still holds. -/
theorem not_refusedBy_of_current {i : Instr} (hs : BlockInvariant s) (hc : s.current = some i)
    (hk : ∀ L, i ≠ .keygen L) (hp : i ≠ .primetest) : refusedBy i s = false := by
  obtain ⟨-, -, -, -, hexec, -⟩ := hs
  have hphase := (current_oneStep hc hk hp).1
  obtain ⟨j, hj, hr⟩ := execOk_iff.1 hexec hphase
  rw [State.current_of_exec hphase, hj] at hc
  cases hc
  exact hr

end Clauses

/-! ### The commands in progress -/

/-- R60: the greatest common divisor is no longer than its operands. -/
theorem gcd_lt_of_lt {a b n : Nat} (ha : a < n) (hb : b < n) : Nat.gcd a b < n := by
  rcases Nat.eq_zero_or_pos a with rfl | hpos
  · rwa [Nat.gcd_zero_left]
  · exact (Nat.gcd_le_left b hpos).trans_lt ha

section Advance
variable {s t : State}

/-- R7, R26, R48: the step of a one-step command in progress keeps the invariant, as its result is within the width. -/
theorem advanceOf_oneStep_keeps_blockInvariant {i : Instr} (hs : BlockInvariant s) (hc : s.current = some i)
    (hk : ∀ L, i ≠ .keygen L) (hp : i ≠ .primetest) (h : advanceOf i s = .next t) : BlockInvariant t := by
  have hcheck := not_refusedBy_of_current hs hc hk hp
  have ⟨_, ⟨ha, hb, hm, _, _, _, _, hke, hkd, _⟩, _⟩ := hs
  cases i with
  | primetest => exact absurd rfl hp
  | keygen L => exact absurd rfl (hk L)
  | montmul =>
    cases h
    have hm0 := mt (montmulRefused_iff s).2 (Bool.eq_false_iff.1 hcheck)
    exact blockInvariant_complete_r hs ((Nat.mod_lt _ (by omega)).trans hm)
  | modexp =>
    cases h
    have hm0 := mt (modexpRefused_iff s).2 (Bool.eq_false_iff.1 hcheck)
    exact blockInvariant_complete_r hs ((modexp_lt _ _ (Nat.pos_of_ne_zero hm0)).trans hm)
  | gcd => cases h; exact blockInvariant_complete_r hs (gcd_lt_of_lt ha hb)
  | jacobi => cases h; exact blockInvariant_complete hs .none
  | modinv =>
    cases h
    have hm0 := mt (modinvRefused_iff s).2 (Bool.eq_false_iff.1 hcheck)
    split
    · rename_i hg
      exact blockInvariant_complete_r hs ((inv_lt (Nat.pos_of_ne_zero hm0) hg).trans hm)
    · exact blockInvariant_complete hs .arithmeticInconsistency
  | ldkeyPub => cases h; exact blockInvariant_complete_project hs hkd
  | ldkeyPriv => cases h; exact blockInvariant_complete_project hs hke

/-- R68: the PT_CHECK step completes, or goes on to the trials of an odd C of at least 3. -/
theorem ptCheckStep_keeps_blockInvariant (hs : BlockInvariant s) (hp : s.phase = .ptCheck)
    (h : ptCheckStep s = .next t) : BlockInvariant t := by
  cases h
  split_ifs with hlt h2 heven
  · exact blockInvariant_complete hs .none
  · exact blockInvariant_complete hs .none
  · exact blockInvariant_complete hs .none
  · obtain ⟨hc, hw, hk, hbusy, -, ⟨hpt, -⟩, -⟩ := hs
    refine ⟨hc, hw, hk, fun _ => hbusy (by simp [hp]), by simp [ExecOk], ⟨fun _ => hpt (Or.inl hp), fun _ => ?_⟩,
      by simp [KeygenOk, KeygenPhase]⟩
    simp only [State.enter_c]
    omega

/-- R69: a trial completes PRIMETEST or leaves a smaller T that is not 0. -/
theorem ptTrialStep_keeps_blockInvariant (hs : BlockInvariant s) (hp : s.phase = .ptTrial)
    (h : ptTrialStep s = .next t) : BlockInvariant t := by
  obtain rfl | ⟨w, e, -, ⟨-, rfl⟩ | ⟨-, -, rfl⟩ | ⟨-, ht, rfl⟩⟩ := ptTrialStep_next h
  · exact hs
  · exact blockInvariant_complete hs .none
  · obtain ⟨hc, hw, hk, -⟩ := hs
    exact blockInvariant_of_idle rfl hc hw hk
  · obtain ⟨hc, hw, hk, hbusy, hexec, ⟨hpt, hodd⟩, hkg⟩ := hs
    obtain ⟨ho, hca, -⟩ := hpt (Or.inr hp)
    exact ⟨hc, hw, hk, hbusy, hexec, ⟨fun _ => ⟨ho, hca, ht⟩, hodd⟩, hkg⟩

/-- R26, R72 to R75: KEYGEN on its way: a busy KEYGEN that enters another of its phases keeps the invariant when the
clauses of that phase hold. -/
theorem blockInvariant_enter_keygenPhase {p : Phase} (hs : BlockInvariant s) (hp : KeygenPhase s.phase)
    (hp' : KeygenPhase p) (hcp : p = .kgQ ∨ p = .kgCheck ∨ p = .kgDerive → Acceptable s.h s.cp)
    (hcq : p = .kgCheck ∨ p = .kgDerive → Acceptable s.h s.cq)
    (hn : p = .kgDerive → bitlen (s.cp * s.cq) = s.l.toNat) : BlockInvariant (s.enter p) := by
  obtain ⟨hc, hw, hk, hbusy, -, -, hkg, -⟩ := hs
  have hne : s.phase ≠ .idle := by rcases hp with hp | hp | hp | hp | hp <;> simp [hp]
  refine ⟨hc, hw, hk, fun _ => hbusy hne, ?_, ?_, fun _ => hkg hp, hcp, hcq, hn⟩
  · rcases hp' with rfl | rfl | rfl | rfl | rfl <;> simp [ExecOk]
  · rcases hp' with rfl | rfl | rfl | rfl | rfl <;> simp [PrimetestOk]

/-- R7, R71: a candidate of H bits is within the width, as H is at most KMAX. -/
theorem lt_two_pow_kmax_of_candidate (hs : BlockInvariant s) (hp : KeygenPhase s.phase) {c : Nat}
    (h : c < 2 ^ s.h.toNat) : c < 2 ^ s.kmax := by
  obtain ⟨-, -, -, -, -, -, hkg, -⟩ := hs
  obtain ⟨-, hl, -, hle, -⟩ := hkg hp
  exact h.trans_le (Nat.pow_le_pow_right (by norm_num) (by omega))

/-- R72: after the shape check KEYGEN looks for p or checks again. -/
theorem kgShapeStep_keeps_blockInvariant (hs : BlockInvariant s) (hp : s.phase = .kgShape)
    (h : kgShapeStep s = .next t) : BlockInvariant t := by
  have hkp : KeygenPhase s.phase := Or.inl hp
  obtain rfl | ⟨e, -, rfl | rfl⟩ := kgShapeStep_next h
  · exact hs
  · exact blockInvariant_enter_keygenPhase (s := { s with env := e }) (p := .kgP) hs hkp (by simp [KeygenPhase])
      (by simp) (by simp) (by simp)
  · exact blockInvariant_enter_keygenPhase (s := { s with env := e }) (p := .kgShape) hs hkp (by simp [KeygenPhase])
      (by simp) (by simp) (by simp)

/-- R73, R79 (b): an accepted p is a candidate the next phases can rely on. -/
theorem kgPStep_keeps_blockInvariant (hs : BlockInvariant s) (hp : s.phase = .kgP) (h : kgPStep s = .next t) :
    BlockInvariant t := by
  have hkp : KeygenPhase s.phase := Or.inr (Or.inl hp)
  obtain rfl | ⟨c, e, -, ⟨hbits, hlt, hodd, rfl⟩ | rfl⟩ := kgPStep_next h
  · exact hs
  · have hcw := lt_two_pow_kmax_of_candidate hs hkp hlt
    have hloaded : BlockInvariant { s with env := e, cp := c } := by
      obtain ⟨hc, ⟨ha, hb, hm, hr, hkn, hkp', hkq, hke, hkd, hcc, -, hcq⟩, hk, hbusy, hexec, hpt, hkg, -⟩ := hs
      exact ⟨hc, ⟨ha, hb, hm, hr, hkn, hkp', hkq, hke, hkd, hcc, hcw, hcq⟩, hk, hbusy, hexec, hpt, hkg,
        by simp [hp], by simp [hp], by simp [hp]⟩
    exact blockInvariant_enter_keygenPhase (p := .kgQ) hloaded hkp (by simp [KeygenPhase]) (fun _ => ⟨hbits, hodd⟩)
      (by simp) (by simp)
  · exact hs

/-- R74, R79 (b): an accepted q is a candidate the next phases can rely on, and p is left as it was accepted. -/
theorem kgQStep_keeps_blockInvariant (hs : BlockInvariant s) (hp : s.phase = .kgQ) (h : kgQStep s = .next t) :
    BlockInvariant t := by
  have hkp : KeygenPhase s.phase := Or.inr (Or.inr (Or.inl hp))
  obtain rfl | ⟨c, e, -, ⟨hbits, hlt, hodd, rfl⟩ | rfl⟩ := kgQStep_next h
  · exact hs
  · have hcw := lt_two_pow_kmax_of_candidate hs hkp hlt
    obtain ⟨hc, ⟨ha, hb, hm, hr, hkn, hkp', hkq, hke, hkd, hcc, hcp, -⟩, hk, hbusy, hexec, hpt, hkg, hpok, -⟩ := hs
    have hloaded : BlockInvariant { s with env := e, cq := c } :=
      ⟨hc, ⟨ha, hb, hm, hr, hkn, hkp', hkq, hke, hkd, hcc, hcp, hcw⟩, hk, hbusy, hexec, hpt, hkg, hpok,
        by simp [hp], by simp [hp]⟩
    exact blockInvariant_enter_keygenPhase (p := .kgCheck) hloaded hkp (by simp [KeygenPhase])
      (fun _ => hpok (Or.inl hp)) (fun _ => ⟨hbits, hodd⟩) (by simp)
  · exact hs

/-- R75: only a product of exactly L bits goes on to the derivation. -/
theorem kgCheckStep_keeps_blockInvariant (hs : BlockInvariant s) (hp : s.phase = .kgCheck)
    (h : kgCheckStep s = .next t) : BlockInvariant t := by
  have hkp : KeygenPhase s.phase := Or.inr (Or.inr (Or.inr (Or.inl hp)))
  have ⟨_, _, _, _, _, _, _, hpok, hqok, _⟩ := hs
  cases h
  split_ifs with hn
  · exact blockInvariant_enter_keygenPhase (p := .kgDerive) hs hkp (by simp [KeygenPhase])
      (fun _ => hpok (by simp [hp])) (fun _ => hqok (by simp [hp])) (fun _ => hn)
  · exact blockInvariant_enter_keygenPhase (p := .kgShape) hs hkp (by simp [KeygenPhase]) (by simp) (by simp) (by simp)

/-- R77, R79: the derivation fails and leaves the key file unset, or writes a key whose parts are within the width. -/
theorem kgDeriveStep_keeps_blockInvariant (hs : BlockInvariant s) (hp : s.phase = .kgDerive)
    (h : kgDeriveStep s = .next t) : BlockInvariant t := by
  by_cases hg : Nat.gcd 65537 (totient s.cp s.cq) = 1
  · obtain ⟨t', ht', -, -, hkey⟩ := exists_kgDeriveStep_keySet hs hp hg
    obtain ⟨d, hd, -, hstep⟩ := kgDeriveStep_of_blockInvariant hs hp hg
    obtain ⟨-, -, -, -, hn⟩ := kgDerive_of_blockInvariant hs hp
    obtain ⟨⟨hkmax, hk32, hk8192⟩, ⟨ha, hb, hm, hr, -, -, -, -, -, hcc, hcp, hcq⟩, -, -, -, -, hkg, -⟩ := hs
    obtain ⟨-, -, -, hle, -⟩ := hkg (by simp [KeygenPhase, hp])
    have hnw : s.cp * s.cq < 2 ^ s.kmax :=
      (lt_two_pow_bitlen _).trans_le (Nat.pow_le_pow_right (by norm_num) (by omega))
    have hew : 65537 < 2 ^ s.kmax :=
      lt_of_lt_of_le (by norm_num : 65537 < 2 ^ 32) (Nat.pow_le_pow_right (by norm_num) hk32)
    have hdw : d < 2 ^ s.kmax :=
      hd.trans ((Nat.mul_le_mul (Nat.sub_le ..) (Nat.sub_le ..)).trans_lt hnw)
    rw [ht'] at h hstep
    cases h
    cases hstep
    exact blockInvariant_of_idle rfl ⟨hkmax, hk32, hk8192⟩
      ⟨ha, hb, hm, hr, hnw, hcp, hcq, hew, hdw, hcc, hcp, hcq⟩ (Or.inr hkey)
  · rw [kgDeriveStep_of_not_coprime hg] at h
    cases h
    exact blockInvariant_complete hs .arithmeticInconsistency

/-- R72 to R77: a step of KEYGEN in progress keeps the invariant. -/
theorem keygenStep_keeps_blockInvariant (hs : BlockInvariant s) (h : keygenStep s = .next t) : BlockInvariant t := by
  unfold keygenStep at h
  split at h
  · exact kgShapeStep_keeps_blockInvariant hs ‹_› h
  · exact kgPStep_keeps_blockInvariant hs ‹_› h
  · exact kgQStep_keeps_blockInvariant hs ‹_› h
  · exact kgCheckStep_keeps_blockInvariant hs ‹_› h
  · exact kgDeriveStep_keeps_blockInvariant hs ‹_› h
  all_goals cases h; exact hs

/-- R26: the step of the command in progress keeps the invariant. -/
theorem advanceOf_keeps_blockInvariant {i : Instr} (hs : BlockInvariant s) (hc : s.current = some i)
    (h : advanceOf i s = .next t) : BlockInvariant t := by
  cases i with
  | primetest =>
    simp only [advanceOf, primetestStep] at h
    split at h
    · exact ptCheckStep_keeps_blockInvariant hs ‹_› h
    · exact ptTrialStep_keeps_blockInvariant hs ((current_primetest hc).resolve_left ‹_›) h
  | keygen L => exact keygenStep_keeps_blockInvariant hs h
  | _ => exact advanceOf_oneStep_keeps_blockInvariant hs hc (by simp) (by simp) h

end Advance

/-! ### Taking a command, the host's writes, reset -/

section Moves
variable {s t : State}

/-- R48: an accepted one-step command enters EXEC with its own operation code and a check that does not refuse. -/
theorem blockInvariant_accepted_oneStep {i : Instr} (hs : BlockInvariant s) (ho : oneStepCommand i.opcode = some i)
    (hr : refusedBy i s = false) :
    BlockInvariant { s with done := false, err := .none, opc := i.opcode, phase := .exec } := by
  obtain ⟨hc, hw, hk, -⟩ := hs
  refine ⟨hc, hw, hk, fun _ => ⟨rfl, rfl⟩, execOk_iff.2 fun _ => ⟨i, ho, ?_⟩, by simp [PrimetestOk],
    by simp [KeygenOk, KeygenPhase]⟩
  rw [← hr]
  cases i <;> rfl

/-- R67: an accepted PRIMETEST holds A in C and a nonzero T. -/
theorem blockInvariant_accepted_primetest (hs : BlockInvariant s) (hr : primetestRefused s = false) :
    BlockInvariant (primetestAccept { s with done := false, err := .none, opc := 0x6 }) := by
  obtain ⟨hc, ⟨ha, hb, hm, hR, hkn, hkp, hkq, hke, hkd, -, hcp, hcq⟩, hk, -⟩ := hs
  have ht : s.rounds ≠ 0 := mt (primetestRefused_iff s).2 (Bool.eq_false_iff.1 hr)
  exact ⟨hc, ⟨ha, hb, hm, hR, hkn, hkp, hkq, hke, hkd, ha, hcp, hcq⟩, hk, fun _ => ⟨rfl, rfl⟩,
    by simp [ExecOk, primetestAccept], ⟨fun _ => ⟨rfl, rfl, ht⟩, by simp [primetestAccept]⟩,
    by simp [KeygenOk, KeygenPhase, primetestAccept]⟩

/-- R71: an accepted KEYGEN holds an even nonzero L of at most KMAX bits and its half, over an unset key file. -/
theorem blockInvariant_accepted_keygen {L : Nat} (hs : BlockInvariant s) (hr : keygenRefused L s = false) :
    BlockInvariant (keygenAccept L { s with done := false, err := .none, opc := 0x7 }) := by
  obtain ⟨hc, ⟨ha, hb, hm, hR, -, -, -, -, -, hcc, hcp, hcq⟩, -⟩ := hs
  have hcheck := mt (keygenRefused_iff s L).2 (Bool.eq_false_iff.1 hr)
  simp only [not_or] at hcheck
  obtain ⟨hL, heven, hrounds, hle⟩ := hcheck
  have hmax : s.kmax ≤ 8192 := hc.2.2
  have hl : (BitVec.ofNat 16 L).toNat = L := by rw [BitVec.toNat_ofNat]; omega
  have hh : (BitVec.ofNat 16 (L / 2)).toNat = L / 2 := by rw [BitVec.toNat_ofNat]; omega
  have hh0 : BitVec.ofNat 16 (L / 2) ≠ 0 := fun h0 => by
    have hz : (BitVec.ofNat 16 (L / 2)).toNat = 0 := congrArg BitVec.toNat h0
    omega
  have hpos := Nat.two_pow_pos s.kmax
  refine ⟨hc, ⟨ha, hb, hm, hR, hpos, hpos, hpos, hpos, hpos, hcc, hcp, hcq⟩,
    Or.inl ⟨rfl, rfl, rfl, rfl, rfl, rfl⟩, fun _ => ⟨rfl, rfl⟩, by simp [ExecOk, keygenAccept],
    by simp [PrimetestOk, keygenAccept],
    fun _ => ⟨rfl, ?_, hh0, ?_, hrounds, rfl, rfl, rfl, rfl, rfl, rfl⟩, by simp [keygenAccept],
    by simp [keygenAccept], by simp [keygenAccept]⟩
  · exact hl.trans (by rw [keygenAccept, State.enter, hh]; omega)
  · exact hl.trans_le (not_lt.1 hle)

/-- R48: an accepted command keeps the invariant. -/
theorem acceptedBy_keeps_blockInvariant {i : Instr} (hs : BlockInvariant s) (hr : refusedBy i s = false) :
    BlockInvariant (acceptedBy i { s with done := false, err := .none, opc := i.opcode }) := by
  cases i with
  | primetest => exact blockInvariant_accepted_primetest hs hr
  | keygen L => exact blockInvariant_accepted_keygen hs hr
  | _ => exact blockInvariant_accepted_oneStep hs rfl hr

/-- R26, R48: a transition of a command keeps the invariant. -/
theorem exec_keeps_blockInvariant {i : Instr} (hs : BlockInvariant s) (h : exec i s = .next t) :
    BlockInvariant t := by
  rcases exec_next h with ⟨hp, rfl⟩ | ⟨-, hr, rfl⟩ | ⟨-, hc, ha⟩ | ⟨-, rfl⟩
  · obtain ⟨hc, hw, hk, -⟩ := hs
    exact blockInvariant_of_idle hp hc hw hk
  · exact acceptedBy_keeps_blockInvariant hs hr
  · exact advanceOf_keeps_blockInvariant hs hc ha
  · exact hs

/-- R13, R36: an idle block takes a value within the width in any register the host names. -/
theorem setBig_keeps_blockInvariant (hs : BlockInvariant s) (hp : s.phase = .idle) (x : BigReg) {v : Nat}
    (hv : v < 2 ^ s.kmax) : BlockInvariant (s.setBig x v) := by
  have ⟨hc, ⟨ha, hb, hm, hkey⟩, hk, _⟩ := hs
  cases x with
  | A => exact blockInvariant_of_idle hp hc ⟨hv, hb, hm, hkey⟩ hk
  | B => exact blockInvariant_of_idle hp hc ⟨ha, hv, hm, hkey⟩ hk
  | M => exact blockInvariant_of_idle hp hc ⟨ha, hb, hv, hkey⟩ hk
  | _ => exact hs

/-- R7: every register with a window is within the width. -/
theorem big_lt_of_blockInvariant (hs : BlockInvariant s) (x : BigReg) : s.big x < 2 ^ s.kmax := by
  obtain ⟨-, ⟨ha, hb, hm, hr, hkn, hkp, hkq, hke, hkd, -⟩, -⟩ := hs
  cases x <;> assumption

/-- R34, R38: a window write to an idle block replaces one word below LW, so the register stays within the width. -/
theorem windowWrite_keeps_blockInvariant (hs : BlockInvariant s) (hp : s.phase = .idle) (x : BigReg) (j : Nat)
    (w : Word) : BlockInvariant (s.windowWrite x j w) := by
  unfold State.windowWrite
  split
  · rename_i hj
    unfold State.lw at hj
    exact setBig_keeps_blockInvariant hs hp x (putWord_lt w (big_lt_of_blockInvariant hs x) (by omega))
  · exact hs

/-- R38: a host write keeps the invariant: STATUS only clears flags, and the rest is written while idle. -/
theorem writeTarget_keeps_blockInvariant (hs : BlockInvariant s) (tg : Target) (w : Word) :
    BlockInvariant (s.writeTarget tg w) := by
  cases tg with
  | status =>
    obtain ⟨hc, hw, hk, hbusy, hrest⟩ := hs
    exact ⟨hc, hw, hk, fun hp => ⟨by simp [State.writeTarget, (hbusy hp).1], (hbusy hp).2⟩, hrest⟩
  | ctrl => exact hs
  | rounds =>
    simp only [State.writeTarget]
    split
    · rename_i hp
      obtain ⟨hc, hw, hk, -⟩ := hs
      exact blockInvariant_of_idle hp hc hw hk
    · exact hs
  | window x j =>
    simp only [State.writeTarget]
    split
    · exact windowWrite_keeps_blockInvariant hs ‹_› x j w
    · exact hs
  | _ => exact hs

/-- R31: the block at its reset values meets the invariant when CONFIG holds a legal KMAX. -/
theorem resetAt_blockInvariant {config : Word} (hc : config.toNat % 32 = 0 ∧ 32 ≤ config.toNat ∧ config.toNat ≤ 8192)
    (e : Env) : BlockInvariant (State.resetAt config e) := by
  have hpos := Nat.two_pow_pos config.toNat
  exact blockInvariant_of_idle rfl hc ⟨hpos, hpos, hpos, hpos, hpos, hpos, hpos, hpos, hpos, hpos, hpos, hpos⟩
    (Or.inl ⟨rfl, rfl, rfl, rfl, rfl, rfl⟩)

end Moves

/-- Settles O51: each of the five shapes of a step keeps the invariant, which does not look at the agents around the
block. -/
theorem everyStepKeepsTheInvariant : Obligations.EveryStepKeepsTheInvariant := by
  intro s t hs h
  rcases step_next h with ⟨e, rfl⟩ | ⟨e, i, he, -⟩ | ⟨hp, e, op, rfl⟩ | ⟨e, tg, w, rfl, -⟩ | ⟨-, e, rfl⟩
  · exact hs
  · exact exec_keeps_blockInvariant (s := { s with env := e }) hs he
  · obtain ⟨hc, hw, hk, -⟩ := hs
    exact blockInvariant_of_idle hp hc hw hk
  · exact writeTarget_keeps_blockInvariant (s := { s with env := e }) hs tg w
  · exact resetAt_blockInvariant hs.1 e

/-- Settles O52: KMAX is a legal value in every build, and the reset state is idle with every register 0. -/
theorem invariantHoldsAfterReset : Obligations.InvariantHoldsAfterReset := by
  have hkmax : (BitVec.ofNat 32 Config.kmax).toNat = Config.kmax := State.reset_kmax
  have hle := Config.kmax_le
  refine resetAt_blockInvariant ?_ _
  rw [hkmax]
  unfold Config.kmax at *
  omega

/-! ### No faults -/

/-- R25, R26: a busy block that meets the invariant has a command in progress. -/
theorem exists_current_of_busy {s : State} (hs : BlockInvariant s) (hp : s.phase ≠ .idle) :
    ∃ i, s.current = some i := by
  obtain ⟨-, -, -, -, hexec, -⟩ := hs
  cases hphase : s.phase with
  | idle => exact absurd hphase hp
  | exec =>
    obtain ⟨i, hi, -⟩ := execOk_iff.1 hexec hphase
    exact ⟨i, (State.current_of_exec hphase).trans hi⟩
  | _ => exact ⟨_, by rw [State.current, hphase]⟩

/-- R26: the sequencer has a step in every busy phase of a block that meets the invariant. -/
theorem sequencerStep_ne_fault {s : State} (hs : BlockInvariant s) (f : Fault) : sequencerStep s ≠ .fault f := by
  unfold sequencerStep
  split
  · exact exec_ne_fault _ _ f
  · rename_i hc
    split
    · simp
    · rename_i hp
      obtain ⟨i, hi⟩ := exists_current_of_busy hs hp
      simp [hc] at hi

/-- R38, R50: no host write faults. -/
theorem hostWrite_ne_fault (s : State) (p : PortIndex) (w : Word) (f : Fault) : hostWrite s p w ≠ .fault f := by
  unfold hostWrite takeWord
  split
  · split
    · split
      · exact exec_ne_fault _ _ f
      · simp
    · simp
  · simp

/-- R40: no agent's move faults from a state that meets the invariant. -/
theorem perform_ne_fault {s : State} (hs : BlockInvariant s) (ev : Event) (f : Fault) : perform ev s ≠ .fault f := by
  cases ev with simp only [perform]
  | sequencer =>
    split
    · simp
    · exact sequencerStep_ne_fault hs f
  | hostWrite p w =>
    split
    · simp
    · exact hostWrite_ne_fault s p w f
  | _ => simp

/-- Settles O53: the only fault is a busy block without a command in progress, and the EXEC clause excludes it. -/
theorem invariantExcludesFaults : Obligations.InvariantExcludesFaults := by
  intro s f hs
  rcases hq : s.env.pending with _ | ⟨ev, rest⟩
  · rw [step_of_nil hq]
    exact perform_ne_fault hs .sequencer f
  · rw [step_of_cons hq]
    exact perform_ne_fault (s := s.withPending rest) hs ev f

/-! ### What an idle block does by itself -/

/-- R25, R41: without a host write and without a reset, a move leaves an idle block as it is. -/
theorem perform_of_idle {ev : Event} {s t : State} (hp : s.phase = .idle) (hreset : ev ≠ .resetAssert)
    (hwrite : ∀ q w, ev ≠ .hostWrite q w) (h : perform ev s = .next t) : t = { s with env := t.env } := by
  cases ev with
  | sequencer =>
    have hc : s.current = none := by rw [State.current, hp]
    simp only [perform, sequencerStep, hc, hp, if_true, ite_self] at h
    cases h
    rfl
  | hostWrite q w => exact absurd rfl (hwrite q w)
  | resetAssert => exact absurd rfl hreset
  | hostWait =>
    simp only [perform, pollDone] at h
    split at h <;> cases h <;> rfl
  | rngAnswer v =>
    simp only [perform] at h
    split at h <;> cases h <;> rfl
  | _ => cases h; rfl

/-- R25, R41: a step of an idle block changes it only by a host write or a reset. -/
theorem step_of_idle {s t : State} (hp : s.phase = .idle) (h : step s = .next t)
    (hreset : s.env.pending.head? ≠ some .resetAssert)
    (hwrite : ∀ q w, s.env.pending.head? ≠ some (.hostWrite q w)) : t = { s with env := t.env } := by
  rcases hq : s.env.pending with _ | ⟨ev, rest⟩ <;> rw [hq] at hreset hwrite
  · rw [step_of_nil hq] at h
    exact perform_of_idle hp (by simp) (by simp) h
  · rw [step_of_cons hq] at h
    exact perform_of_idle (s := s.withPending rest) hp (by simpa using hreset) (by simpa using hwrite) h

/-- Settles O44: DONE = 1 says that the block is idle, and no port word depends on the agents around it. -/
theorem readsAfterDoneAreSettled : Obligations.ReadsAfterDoneAreSettled := by
  intro s t p ⟨_, _, _, hbusy, _⟩ hdone h hreset hwrite
  have hp : s.phase = .idle := by
    by_contra hne
    simp [(hbusy hne).1] at hdone
  rw [step_of_idle hp h hreset hwrite, hostRead_env]

end Sys2Proof.Machine
end

section
/-! PROOFS. Who writes what (10_state.md): the frame of every command over the fields of the state and the words of the
host port, and over every step the writers of DIAG (R89), PRIME and JAC (R20), the key file (R16) and PBITS (R17), and
the phase graph (R26). -/

namespace Sys2Proof.Machine

open Sys2Proof.Safety

/-! ### The frame of each command -/

/-- R37: what has to be unchanged for a port word other than STATUS and ERR to read the same. -/
theorem hostRead_eq_of_fields {s t : State} {p : PortIndex} (hstatus : 4 * p.val ≠ 0x0004)
    (herr : 4 * p.val ≠ 0x0008) (hf : t = { t with rounds := s.rounds, ie := s.ie, config := s.config })
    (hkbits : 4 * p.val = 0x0014 → t.kbits = s.kbits) (hpbits : 4 * p.val = 0x0018 → t.pbits = s.pbits)
    (hbig : ∀ x : BigReg, 0x1000 + 0x400 * x.index ≤ 4 * p.val → 4 * p.val < 0x1400 + 0x400 * x.index →
      t.big x = s.big x) : t.hostRead p = s.hostRead p := by
  refine hostRead_congr p fun tg ht => ?_
  cases tg with simp only [Target.At] at ht
  | cmd | reserved => rfl
  | status => exact absurd ht hstatus
  | err => exact absurd ht herr
  | rounds | ctrl | config => rw [hf]; rfl
  | kbits => exact hkbits ht
  | pbits => exact hpbits ht
  | window x j =>
    have hlw : t.lw = s.lw := by rw [hf]; rfl
    rw [State.readTarget, State.readTarget, State.windowRead, State.windowRead, hlw, hbig x (by omega) (by omega)]

section Frames
variable {s t : State}

/-- R15: an EXEC step of MONTMUL, MODEXP, GCD or MODINV changes R, DONE, ERR and PHASE at most. -/
theorem advanceOf_arithmetic_frame {i : Instr} (hi : i ∈ [Instr.montmul, .modexp, .gcd, .modinv])
    (h : advanceOf i s = .next t) : t = { s with r := t.r, done := t.done, err := t.err, phase := t.phase } := by
  cases i with
  | montmul | modexp | gcd => cases h; rfl
  | modinv =>
    cases h
    split <;> rfl
  | _ => simp at hi

/-- R80, R81: an EXEC step of LDKEY.PUB or LDKEY.PRIV copies the key and completes without error. -/
theorem advanceOf_keyLoad {i : Instr} (hi : i ∈ [Instr.ldkeyPub, .ldkeyPriv]) (h : advanceOf i s = .next t) :
    t = { s with m := s.kn, b := t.b, pbits := s.kbits, done := true, err := .none, phase := .idle } := by
  cases i with
  | ldkeyPub | ldkeyPriv => cases h; rfl
  | _ => simp at hi

/-- R26, R48: a transition of a one-step command refuses it, accepts it into EXEC, is its EXEC step, or changes
nothing. -/
theorem exec_oneStep_next {i : Instr} (hi : i ≠ .primetest) (hk : ∀ L, i ≠ .keygen L) (h : exec i s = .next t) :
    t = { s with done := t.done, err := t.err, opc := t.opc, phase := t.phase } ∨
      (s.phase = .exec ∧ s.opc = i.opcode ∧ advanceOf i s = .next t) := by
  rcases exec_next h with ⟨-, rfl⟩ | ⟨-, -, rfl⟩ | ⟨-, hc, ha⟩ | ⟨-, rfl⟩
  · exact Or.inl rfl
  · left
    rw [acceptedBy_oneStep hi hk, State.enter]
  · obtain ⟨hp, ho⟩ := current_oneStep hc hk hi
    exact Or.inr ⟨hp, ho, ha⟩
  · exact Or.inl rfl

/-- R68, R69, R92: a step of PRIMETEST takes answers and changes nothing else around the block. -/
theorem primetestStep_env (h : primetestStep s = .next t) : s.env.sameButDraws t.env := by
  unfold primetestStep at h
  split at h
  · cases h
    split_ifs <;> exact Env.sameButDraws_refl _
  · obtain rfl | ⟨w, e, hd, ht⟩ := ptTrialStep_next h
    · exact Env.sameButDraws_refl _
    · have he := (draw_ok hd).2.2
      rcases ht with ⟨-, rfl⟩ | ⟨-, -, rfl⟩ | ⟨-, -, rfl⟩ <;> exact he

/-- R72 to R77, R92: a step of KEYGEN takes answers and changes nothing else around the block. -/
theorem keygenStep_env (h : keygenStep s = .next t) : s.env.sameButDraws t.env := by
  unfold keygenStep at h
  split at h
  · obtain rfl | ⟨e, he, rfl | rfl⟩ := kgShapeStep_next h
    · exact Env.sameButDraws_refl _
    · exact he
    · exact he
  · obtain rfl | ⟨c, e, he, ⟨-, -, -, rfl⟩ | rfl⟩ := kgPStep_next h
    · exact Env.sameButDraws_refl _
    · exact he
    · exact he
  · obtain rfl | ⟨c, e, he, ⟨-, -, -, rfl⟩ | rfl⟩ := kgQStep_next h
    · exact Env.sameButDraws_refl _
    · exact he
    · exact he
  · cases h; exact Env.sameButDraws_refl _
  · rw [kgDeriveStep_frame h]; exact Env.sameButDraws_refl _
  all_goals cases h; exact Env.sameButDraws_refl _

/-- R14, R15: the frame of MONTMUL, MODEXP, GCD and MODINV. -/
theorem exec_arithmetic_frame {i : Instr} (hi : i ∈ [Instr.montmul, .modexp, .gcd, .modinv])
    (h : exec i s = .next t) :
    t = { s with r := t.r, done := t.done, err := t.err, opc := t.opc, phase := t.phase } := by
  rcases exec_oneStep_next (by rintro rfl; simp at hi) (by rintro L rfl; simp at hi) h with hf | ⟨-, -, ha⟩
  · rw [hf]
  · rw [advanceOf_arithmetic_frame hi ha]

/-- R61: the frame of JACOBI, and the one transition of it that is not just its life cycle. -/
theorem exec_jacobi_frame (h : exec .jacobi s = .next t) :
    t = { s with done := t.done, err := t.err, opc := t.opc, phase := t.phase } ∨
      (s.phase = .exec ∧ s.opc = 0x4 ∧
        t = { s with jac := t.jac, done := true, err := .none, phase := .idle }) := by
  rcases exec_oneStep_next (by simp) (by simp) h with hf | ⟨hp, ho, ha⟩
  · exact Or.inl hf
  · cases ha
    exact Or.inr ⟨hp, ho, rfl⟩

/-- R80, R81: the frame of the key loads, and the one transition of them that is not just their life cycle. -/
theorem exec_keyLoad_frame {i : Instr} (hi : i ∈ [Instr.ldkeyPub, .ldkeyPriv]) (h : exec i s = .next t) :
    t = { s with done := t.done, err := t.err, opc := t.opc, phase := t.phase } ∨
      (s.phase = .exec ∧
        t = { s with m := s.kn, b := t.b, pbits := s.kbits, done := true, err := .none, phase := .idle }) := by
  rcases exec_oneStep_next (by rintro rfl; simp at hi) (by rintro L rfl; simp at hi) h with hf | ⟨hp, -, ha⟩
  · exact Or.inl hf
  · exact Or.inr ⟨hp, advanceOf_keyLoad hi ha⟩

/-- R67 to R69: the frame of PRIMETEST. -/
theorem exec_primetest_frame (h : exec .primetest s = .next t) :
    t = { s with
      prime := t.prime, c := t.c, t := t.t, done := t.done, err := t.err, opc := t.opc, phase := t.phase,
      env := { s.env with answers := t.env.answers, drawn := t.env.drawn } } := by
  rcases exec_next h with ⟨-, rfl⟩ | ⟨-, -, rfl⟩ | ⟨-, -, ha⟩ | ⟨-, rfl⟩
  · rfl
  · rfl
  · rw [← Env.eq_of_sameButDraws (primetestStep_env ha), primetestStep_frame ha]
  · rfl

/-- R71 to R77: the frame of KEYGEN. -/
theorem exec_keygen_frame {L : Nat} (h : exec (.keygen L) s = .next t) :
    t = { s with
      kn := t.kn, kp := t.kp, kq := t.kq, ke := t.ke, kd := t.kd, kbits := t.kbits, diag := t.diag,
      l := t.l, h := t.h, cp := t.cp, cq := t.cq, done := t.done, err := t.err, opc := t.opc,
      phase := t.phase, env := { s.env with answers := t.env.answers, drawn := t.env.drawn } } := by
  rcases exec_next h with ⟨-, rfl⟩ | ⟨-, -, rfl⟩ | ⟨-, -, ha⟩ | ⟨-, rfl⟩
  · rfl
  · rfl
  · rw [← Env.eq_of_sameButDraws (keygenStep_env ha), keygenStep_frame ha]
  · rfl

end Frames

/-- Settles O33: `exec_arithmetic_frame`, the writers of R by `exec_writes_r`, and of the port only STATUS, ERR and the
window of R depend on the fields that change. -/
theorem arithmeticCommandsFrame : Obligations.ArithmeticCommandsFrame := by
  intro i hi s t h
  have hf := exec_arithmetic_frame hi h
  refine ⟨hf, fun hr => ?_, fun p hstatus herr hwin => ?_⟩
  · obtain ⟨hp, -, hend⟩ := exec_writes_r h hr
    exact ⟨hp, hend⟩
  · refine hostRead_eq_of_fields hstatus herr (by rw [hf]) (fun _ => by rw [hf]) (fun _ => by rw [hf]) ?_
    intro x hl hu
    cases x with
    | R => exact absurd ⟨hl, hu⟩ hwin
    | _ => rw [hf]; rfl

/-- Settles O34: `exec_jacobi_frame`; of the port only STATUS and ERR depend on the fields that change. -/
theorem jacobiFrame : Obligations.JacobiFrame := by
  intro s t h
  have hcases := exec_jacobi_frame h
  have hf : t = { s with jac := t.jac, done := t.done, err := t.err, opc := t.opc, phase := t.phase } := by
    rcases hcases with hf | ⟨-, -, hf⟩ <;> rw [hf]
  refine ⟨hf, fun hj => ?_, fun p hstatus herr => ?_⟩
  · obtain hl | ⟨hp, -, hl⟩ := hcases
    · exact absurd (congrArg State.jac hl) hj
    · exact ⟨hp, congrArg State.phase hl, congrArg State.done hl, congrArg State.err hl⟩
  · refine hostRead_eq_of_fields hstatus herr (by rw [hf]) (fun _ => by rw [hf]) (fun _ => by rw [hf]) ?_
    intro x _ _
    rw [hf]
    cases x <;> rfl

/-- R68, R69: a step of PRIMETEST that changes PRIME completes without error. -/
theorem primetestStep_writes_prime {s t : State} (h : primetestStep s = .next t) (hne : t.prime ≠ s.prime) :
    t.phase = .idle ∧ t.done = true ∧ t.err = .none := by
  unfold primetestStep at h
  split at h
  · cases h
    split_ifs at hne ⊢
    · exact ⟨rfl, rfl, rfl⟩
    · exact ⟨rfl, rfl, rfl⟩
    · exact ⟨rfl, rfl, rfl⟩
    · exact absurd rfl hne
  · obtain rfl | ⟨w, e, -, ⟨-, rfl⟩ | ⟨-, -, rfl⟩ | ⟨-, -, rfl⟩⟩ := ptTrialStep_next h
    · exact absurd rfl hne
    · exact ⟨rfl, rfl, rfl⟩
    · exact ⟨rfl, rfl, rfl⟩
    · exact absurd rfl hne

/-- R20, R67: a transition of PRIMETEST that changes PRIME is its last step, completed without error. -/
theorem exec_primetest_writes_prime {s t : State} (h : exec .primetest s = .next t) (hne : t.prime ≠ s.prime) :
    (s.phase = .ptCheck ∨ s.phase = .ptTrial) ∧ t.phase = .idle ∧ t.done = true ∧ t.err = .none := by
  rcases exec_next h with ⟨-, rfl⟩ | ⟨-, -, rfl⟩ | ⟨-, hc, ha⟩ | ⟨-, rfl⟩
  · exact absurd rfl hne
  · exact absurd rfl hne
  · exact ⟨current_primetest hc, primetestStep_writes_prime ha hne⟩
  · exact absurd rfl hne

/-- Settles O35: `exec_primetest_frame`; of the port only STATUS and ERR depend on the fields that change. -/
theorem primetestFrame : Obligations.PrimetestFrame := by
  intro s t h
  have hf := exec_primetest_frame h
  refine ⟨hf, fun hne => (exec_primetest_writes_prime h hne).2, fun p hstatus herr => ?_⟩
  refine hostRead_eq_of_fields hstatus herr (by rw [hf]) (fun _ => by rw [hf]) (fun _ => by rw [hf]) ?_
  intro x _ _
  rw [hf]
  cases x <;> rfl

/-- Settles O36: `exec_keygen_frame`; of the port only STATUS, ERR, KBITS and the five key windows depend on the fields
that change. -/
theorem keygenFrame : Obligations.KeygenFrame := by
  intro L s t h
  have hf := exec_keygen_frame h
  refine ⟨hf, fun p hstatus herr hkbits hwin => ?_⟩
  refine hostRead_eq_of_fields hstatus herr (by rw [hf]) (fun hk => absurd hk hkbits) (fun _ => by rw [hf]) ?_
  intro x hl hu
  cases x with simp only [BigReg.index] at hl hu
  | A | B | M | R => rw [hf]; rfl
  | _ => omega

/-- Settles O37: `exec_keyLoad_frame`; of the port only STATUS, ERR, PBITS and the windows of B and M depend on the
fields that change. -/
theorem keyLoadFrame : Obligations.KeyLoadFrame := by
  intro i hi s t h
  have hcases := exec_keyLoad_frame hi h
  have hf : t = { s with
      m := t.m, b := t.b, pbits := t.pbits, done := t.done, err := t.err, opc := t.opc, phase := t.phase } := by
    rcases hcases with hf | ⟨-, hf⟩ <;> rw [hf]
  refine ⟨hf, fun hne => ?_, fun p hstatus herr hpbits hwin => ?_⟩
  · obtain hl | ⟨hp, hl⟩ := hcases
    · exact absurd hne (by simp [congrArg State.m hl, congrArg State.b hl, congrArg State.pbits hl])
    · exact ⟨hp, congrArg State.phase hl, congrArg State.done hl, congrArg State.err hl⟩
  · refine hostRead_eq_of_fields hstatus herr (by rw [hf]) (fun _ => by rw [hf]) (fun hp => absurd hp hpbits) ?_
    intro x hl hu
    cases x with simp only [BigReg.index] at hl hu
    | B | M => omega
    | _ => rw [hf]; rfl

/-! ### Writers over every step -/

section Writers
variable {s t : State}

/-- R48, R67, R71: what the acceptance of a command can change. -/
theorem acceptedBy_frame (i : Instr) (s : State) :
    acceptedBy i s = { s with
      kn := (acceptedBy i s).kn, kp := (acceptedBy i s).kp, kq := (acceptedBy i s).kq, ke := (acceptedBy i s).ke,
      kd := (acceptedBy i s).kd, kbits := (acceptedBy i s).kbits, phase := (acceptedBy i s).phase,
      c := (acceptedBy i s).c, t := (acceptedBy i s).t, l := (acceptedBy i s).l, h := (acceptedBy i s).h } := by
  cases i <;> rfl

/-- R38: a host write reaches the operand registers, ROUNDS, IE and the flags DONE and DIAG at most. -/
theorem writeTarget_frame (s : State) (tg : Target) (w : Word) :
    s.writeTarget tg w = { s with
      a := (s.writeTarget tg w).a, b := (s.writeTarget tg w).b, m := (s.writeTarget tg w).m,
      rounds := (s.writeTarget tg w).rounds, ie := (s.writeTarget tg w).ie, done := (s.writeTarget tg w).done,
      diag := (s.writeTarget tg w).diag } := by
  cases tg with
  | window x j =>
    simp only [State.writeTarget, State.windowWrite]
    split_ifs
    · cases x <;> rfl
    · rfl
    · rfl
  | rounds =>
    simp only [State.writeTarget]
    split <;> rfl
  | _ => rfl

/-- R20, R38: a host write never sets DIAG. -/
theorem diag_of_writeTarget_diag {tg : Target} {w : Word} (h : (s.writeTarget tg w).diag = true) :
    s.diag = true := by
  cases tg with
  | status => rw [State.writeTarget, State.writeStatus_diag, Bool.and_eq_true] at h; exact h.1
  | window x j =>
    simp only [State.writeTarget, State.windowWrite] at h
    split_ifs at h
    · rwa [State.setBig_diag] at h
    · exact h
    · exact h
  | rounds =>
    simp only [State.writeTarget] at h
    split at h <;> exact h
  | _ => exact h

/-- A step is a reset, a command's transition, or a change of the agents, of what the host writes and of the registers
an illegal word sets. -/
theorem step_frame (h : step s = .next t) :
    s.env.pending.head? = some .resetAssert ∨ (∃ e i, exec i { s with env := e } = .next t) ∨
      t = { s with
        a := t.a, b := t.b, m := t.m, rounds := t.rounds, ie := t.ie, done := t.done, diag := t.diag, err := t.err,
        opc := t.opc, env := t.env } := by
  rcases step_next h with ⟨e, rfl⟩ | ⟨e, i, he, -⟩ | ⟨-, e, op, rfl⟩ | ⟨e, tg, w, rfl, -⟩ | ⟨hreset, -⟩
  · exact Or.inr (Or.inr rfl)
  · exact Or.inr (Or.inl ⟨e, i, he⟩)
  · exact Or.inr (Or.inr rfl)
  · right; right
    rw [writeTarget_frame]
  · exact Or.inl hreset

/-- R26: the step of a one-step command in progress reaches none of the key file, PRIME, DIAG and the scratch. -/
theorem advanceOf_oneStep_frame {i : Instr} (hp : i ≠ .primetest) (hk : ∀ L, i ≠ .keygen L)
    (h : advanceOf i s = .next t) :
    t = { s with
      r := t.r, jac := t.jac, m := t.m, b := t.b, pbits := t.pbits, done := t.done, err := t.err,
      phase := t.phase } := by
  cases i with
  | primetest => exact absurd rfl hp
  | keygen L => exact absurd rfl (hk L)
  | modinv =>
    cases h
    split <;> rfl
  | _ => cases h; rfl

/-- R77, R79, R89: the derivation of a block that meets the invariant leaves DIAG as it is. -/
theorem kgDeriveStep_diag (hs : BlockInvariant s) (hp : s.phase = .kgDerive) (h : kgDeriveStep s = .next t) :
    t.diag = s.diag := by
  by_cases hg : Nat.gcd 65537 (totient s.cp s.cq) = 1
  · obtain ⟨d, -, -, hstep⟩ := kgDeriveStep_of_blockInvariant hs hp hg
    rw [hstep] at h
    cases h
    rfl
  · rw [kgDeriveStep_of_not_coprime hg] at h
    cases h
    rfl

/-- R72 to R75: before the derivation KEYGEN writes its candidates and PHASE alone. -/
theorem keygenStep_frame_before_derive (hp : s.phase ≠ .kgDerive) (h : keygenStep s = .next t) :
    t = { s with env := t.env, cp := t.cp, cq := t.cq, phase := t.phase } := by
  unfold keygenStep at h
  split at h
  · obtain rfl | ⟨e, -, rfl | rfl⟩ := kgShapeStep_next h <;> rfl
  · obtain rfl | ⟨c, e, -, ⟨-, -, -, rfl⟩ | rfl⟩ := kgPStep_next h <;> rfl
  · obtain rfl | ⟨c, e, -, ⟨-, -, -, rfl⟩ | rfl⟩ := kgQStep_next h <;> rfl
  · cases h; rfl
  · rename_i hd; exact absurd hd hp
  all_goals cases h; rfl

/-- R77, R89: no command sets DIAG in a block that meets the invariant. -/
theorem exec_diag {i : Instr} (hs : BlockInvariant s) (h : exec i s = .next t) : t.diag = s.diag := by
  rcases exec_next h with ⟨-, rfl⟩ | ⟨-, -, rfl⟩ | ⟨-, -, ha⟩ | ⟨-, rfl⟩
  · rfl
  · rw [acceptedBy_frame]
  · cases i with
    | primetest => rw [primetestStep_frame ha]
    | keygen L =>
      by_cases hp : s.phase = .kgDerive
      · exact kgDeriveStep_diag hs hp (by rwa [advanceOf, keygenStep, hp] at ha)
      · rw [keygenStep_frame_before_derive hp ha]
    | _ => rw [advanceOf_oneStep_frame (by simp) (by simp) ha]
  · rfl

end Writers

/-- Settles O54: the one writer of a set DIAG is KG_DERIVE, where the invariant makes the self-check hold. -/
theorem diagIsNeverSet : Obligations.DiagIsNeverSet := by
  intro s t hs h hdiag
  rcases step_next h with ⟨e, rfl⟩ | ⟨e, i, he, -⟩ | ⟨-, e, op, rfl⟩ | ⟨e, tg, w, rfl, -⟩ | ⟨-, e, rfl⟩
  · exact hdiag
  · rwa [exec_diag (s := { s with env := e }) hs he] at hdiag
  · exact hdiag
  · exact diag_of_writeTarget_diag (s := { s with env := e }) hdiag
  · cases hdiag

section CommandWriters
variable {s t : State} {i : Instr}

/-- R20: of the commands PRIMETEST alone changes PRIME, in its last step. -/
theorem exec_writes_prime (h : exec i s = .next t) (hne : t.prime ≠ s.prime) :
    (s.phase = .ptCheck ∨ s.phase = .ptTrial) ∧ t.phase = .idle ∧ t.done = true ∧ t.err = .none := by
  cases i with
  | primetest => exact exec_primetest_writes_prime h hne
  | keygen L => exact absurd (by rw [exec_keygen_frame h]) hne
  | _ =>
    rcases exec_oneStep_next (by simp) (by simp) h with hf | ⟨-, -, ha⟩
    · exact absurd (by rw [hf]) hne
    · exact absurd (by rw [advanceOf_oneStep_frame (by simp) (by simp) ha]) hne

/-- R20: of the commands JACOBI alone changes JAC, in its EXEC step. -/
theorem exec_writes_jac (h : exec i s = .next t) (hne : t.jac ≠ s.jac) :
    s.phase = .exec ∧ s.opc = 0x4 ∧ t.phase = .idle ∧ t.done = true ∧ t.err = .none := by
  cases i with
  | jacobi =>
    rcases exec_jacobi_frame h with hf | ⟨hp, ho, hf⟩
    · exact absurd (by rw [hf]) hne
    · exact ⟨hp, ho, by rw [hf], by rw [hf], by rw [hf]⟩
  | primetest => exact absurd (by rw [exec_primetest_frame h]) hne
  | keygen L => exact absurd (by rw [exec_keygen_frame h]) hne
  | montmul | modexp | gcd | modinv => exact absurd (by rw [exec_arithmetic_frame (by simp) h]) hne
  | ldkeyPub | ldkeyPriv =>
    rcases exec_keyLoad_frame (by simp) h with hf | ⟨-, hf⟩ <;> exact absurd (by rw [hf]) hne

/-- R17: of the commands LDKEY.PUB and LDKEY.PRIV alone change PBITS, in their EXEC step. -/
theorem exec_writes_pbits (h : exec i s = .next t) (hne : t.pbits ≠ s.pbits) :
    s.phase = .exec ∧ t.pbits = s.kbits ∧ t.m = s.kn ∧
      ((s.opc = 0x8 ∧ t.b = s.kd) ∨ (s.opc = 0x9 ∧ t.b = s.ke)) ∧ t.done = true ∧ t.err = .none := by
  cases i with
  | primetest => exact absurd (by rw [exec_primetest_frame h]) hne
  | keygen L => exact absurd (by rw [exec_keygen_frame h]) hne
  | montmul | modexp | gcd | modinv => exact absurd (by rw [exec_arithmetic_frame (by simp) h]) hne
  | jacobi => rcases exec_jacobi_frame h with hf | ⟨-, -, hf⟩ <;> exact absurd (by rw [hf]) hne
  | ldkeyPub =>
    rcases exec_oneStep_next (by simp) (by simp) h with hf | ⟨hp, ho, ha⟩
    · exact absurd (by rw [hf]) hne
    · cases ha
      exact ⟨hp, rfl, rfl, Or.inl ⟨ho, rfl⟩, rfl, rfl⟩
  | ldkeyPriv =>
    rcases exec_oneStep_next (by simp) (by simp) h with hf | ⟨hp, ho, ha⟩
    · exact absurd (by rw [hf]) hne
    · cases ha
      exact ⟨hp, rfl, rfl, Or.inr ⟨ho, rfl⟩, rfl, rfl⟩

/-- R16: the six registers of the key file are the same in two states. -/
def SameKeyFile (s t : State) : Prop :=
  t.kn = s.kn ∧ t.kp = s.kp ∧ t.kq = s.kq ∧ t.ke = s.ke ∧ t.kd = s.kd ∧ t.kbits = s.kbits

/-- R16, R77: what a completed key generation leaves in the key file. -/
def KeyWritten (s t : State) : Prop :=
  s.phase = .kgDerive ∧ t.phase = .idle ∧ t.done = true ∧ t.err = .none ∧
    t.kn = s.cp * s.cq ∧ t.kp = s.cp ∧ t.kq = s.cq ∧ t.ke = 65537 ∧ t.kbits.toNat = s.l.toNat

/-- R77: the last step of KEYGEN leaves the key file or writes it whole. -/
theorem kgDeriveStep_keyFile (hp : s.phase = .kgDerive) (h : kgDeriveStep s = .next t) :
    SameKeyFile s t ∨ KeyWritten s t := by
  by_cases hg : Nat.gcd 65537 (totient s.cp s.cq) = 1
  · obtain ⟨d, -, -, hstep⟩ := kgDeriveStep_of_coprime hg
    rw [hstep] at h
    cases h
    exact Or.inr ⟨hp, rfl, rfl, rfl, rfl, rfl, rfl, rfl, BitVec.toNat_setWidth_of_le (by norm_num)⟩
  · rw [kgDeriveStep_of_not_coprime hg] at h
    cases h
    exact Or.inl ⟨rfl, rfl, rfl, rfl, rfl, rfl⟩

/-- R16: a command leaves the key file, or is KEYGEN and zeroes it at acceptance or writes it in its last step. -/
theorem exec_keyFile (h : exec i s = .next t) :
    SameKeyFile s t ∨ (s.phase = .idle ∧ t.phase = .kgShape ∧ KeyUnset t) ∨ KeyWritten s t := by
  cases i with
  | keygen L =>
    rcases exec_next h with ⟨-, rfl⟩ | ⟨hp, -, rfl⟩ | ⟨-, -, ha⟩ | ⟨-, rfl⟩
    · exact Or.inl ⟨rfl, rfl, rfl, rfl, rfl, rfl⟩
    · exact Or.inr (Or.inl ⟨hp, rfl, rfl, rfl, rfl, rfl, rfl, rfl⟩)
    · by_cases hp : s.phase = .kgDerive
      · exact (kgDeriveStep_keyFile hp (by rwa [advanceOf, keygenStep, hp] at ha)).imp_right Or.inr
      · rw [keygenStep_frame_before_derive hp ha]
        exact Or.inl ⟨rfl, rfl, rfl, rfl, rfl, rfl⟩
    · exact Or.inl ⟨rfl, rfl, rfl, rfl, rfl, rfl⟩
  | primetest =>
    rw [exec_primetest_frame h]
    exact Or.inl ⟨rfl, rfl, rfl, rfl, rfl, rfl⟩
  | _ =>
    left
    rcases exec_oneStep_next (by simp) (by simp) h with hf | ⟨-, -, ha⟩
    · rw [hf]
      exact ⟨rfl, rfl, rfl, rfl, rfl, rfl⟩
    · rw [advanceOf_oneStep_frame (by simp) (by simp) ha]
      exact ⟨rfl, rfl, rfl, rfl, rfl, rfl⟩

end CommandWriters

/-- Settles O56: by `step_frame` only a reset and a command reach PRIME and JAC. -/
theorem primeAndJacHaveOneWriterEach : Obligations.PrimeAndJacHaveOneWriterEach := by
  intro s t h
  rcases step_frame h with hreset | ⟨e, i, he⟩ | hf
  · exact ⟨fun _ => Or.inl hreset, fun _ => Or.inl hreset⟩
  · exact ⟨fun hne => Or.inr (exec_writes_prime (s := { s with env := e }) he hne),
      fun hne => Or.inr (exec_writes_jac (s := { s with env := e }) he hne)⟩
  · exact ⟨fun hne => absurd (by rw [hf]) hne, fun hne => absurd (by rw [hf]) hne⟩

/-- Settles O57: by `step_frame` only a reset and a command reach the key file, and `exec_keyFile` says which. -/
theorem keyFileIsWrittenByKeygenAlone : Obligations.KeyFileIsWrittenByKeygenAlone := by
  intro s t h hne
  have hchanged : ¬SameKeyFile s t := by
    rintro ⟨hkn, hkp, hkq, hke, hkd, hkbits⟩
    simp [hkn, hkp, hkq, hke, hkd, hkbits] at hne
  rcases step_frame h with hreset | ⟨e, i, he⟩ | hf
  · exact Or.inl hreset
  · exact Or.inr ((exec_keyFile he).resolve_left hchanged)
  · exact absurd (by rw [hf]; exact ⟨rfl, rfl, rfl, rfl, rfl, rfl⟩) hchanged

/-- Settles O58: by `step_frame` only a reset and a command reach PBITS. -/
theorem pbitsIsWrittenByKeyLoadsAlone : Obligations.PbitsIsWrittenByKeyLoadsAlone := by
  intro s t h hne
  rcases step_frame h with hreset | ⟨e, i, he⟩ | hf
  · exact Or.inl hreset
  · exact Or.inr (exec_writes_pbits (s := { s with env := e }) he hne)
  · exact absurd (by rw [hf]) hne

/-! ### The phase graph -/

/-- The arrows between different phases in the table of R26. -/
def phaseArrows : List (Phase × Phase) :=
  [(.idle, .exec), (.idle, .ptCheck), (.idle, .kgShape), (.exec, .idle), (.ptCheck, .idle), (.ptCheck, .ptTrial),
   (.ptTrial, .idle), (.kgShape, .kgP), (.kgP, .kgQ), (.kgQ, .kgCheck), (.kgCheck, .kgDerive), (.kgCheck, .kgShape),
   (.kgDerive, .idle)]

section Graph
variable {s t : State} {i : Instr}

/-- R48: an accepted command leaves the idle phase by an arrow. -/
theorem acceptedBy_phase_mem (i : Instr) (s : State) : (.idle, (acceptedBy i s).phase) ∈ phaseArrows := by
  cases i <;> simp [acceptedBy, primetestAccept, keygenAccept, phaseArrows]

/-- R26: the EXEC step of a one-step command ends it. -/
theorem advanceOf_oneStep_phase (hp : i ≠ .primetest) (hk : ∀ L, i ≠ .keygen L) (h : advanceOf i s = .next t) :
    t.phase = .idle := by
  cases i with
  | primetest => exact absurd rfl hp
  | keygen L => exact absurd rfl (hk L)
  | modinv =>
    cases h
    split <;> rfl
  | _ => cases h; rfl

/-- R26, R68, R69: PRIMETEST goes from its check to its trials and ends from either. -/
theorem primetestStep_phase (hp : s.phase = .ptCheck ∨ s.phase = .ptTrial) (h : primetestStep s = .next t) :
    t.phase = s.phase ∨ (s.phase, t.phase) ∈ phaseArrows := by
  unfold primetestStep at h
  split at h
  · rename_i hc
    right
    cases h
    split_ifs <;> simp [hc, phaseArrows]
  · rename_i hc
    have ht := hp.resolve_left hc
    obtain rfl | ⟨w, e, -, ⟨-, rfl⟩ | ⟨-, -, rfl⟩ | ⟨-, -, rfl⟩⟩ := ptTrialStep_next h
    · exact Or.inl rfl
    · exact Or.inr (by simp [ht, phaseArrows])
    · exact Or.inr (by simp [ht, phaseArrows])
    · exact Or.inl rfl

/-- R77: the derivation ends KEYGEN, with or without an error. -/
theorem kgDeriveStep_phase (h : kgDeriveStep s = .next t) : t.phase = .idle := by
  unfold kgDeriveStep at h
  cases h
  split <;> rfl

/-- R26, R72 to R77: KEYGEN goes through its phases in order and back to the shape check from KG_CHECK alone. -/
theorem keygenStep_phase (h : keygenStep s = .next t) :
    t.phase = s.phase ∨ (s.phase, t.phase) ∈ phaseArrows := by
  unfold keygenStep at h
  split at h
  case h_1 hp =>
    obtain rfl | ⟨e, -, rfl | rfl⟩ := kgShapeStep_next h
    · exact Or.inl rfl
    · exact Or.inr (by simp [hp, phaseArrows])
    · exact Or.inl hp.symm
  case h_2 hp =>
    obtain rfl | ⟨c, e, -, ⟨-, -, -, rfl⟩ | rfl⟩ := kgPStep_next h
    · exact Or.inl rfl
    · exact Or.inr (by simp [hp, phaseArrows])
    · exact Or.inl rfl
  case h_3 hp =>
    obtain rfl | ⟨c, e, -, ⟨-, -, -, rfl⟩ | rfl⟩ := kgQStep_next h
    · exact Or.inl rfl
    · exact Or.inr (by simp [hp, phaseArrows])
    · exact Or.inl rfl
  case h_4 hp =>
    cases h
    split_ifs <;> exact Or.inr (by simp [hp, phaseArrows])
  case h_5 hp => exact Or.inr (by simp [hp, kgDeriveStep_phase h, phaseArrows])
  all_goals cases h; exact Or.inl rfl

/-- R26: a command's transition leaves PHASE or follows an arrow. -/
theorem exec_phase (h : exec i s = .next t) : t.phase = s.phase ∨ (s.phase, t.phase) ∈ phaseArrows := by
  rcases exec_next h with ⟨-, rfl⟩ | ⟨hp, -, rfl⟩ | ⟨-, hc, ha⟩ | ⟨-, rfl⟩
  · exact Or.inl rfl
  · rw [hp]
    exact Or.inr (acceptedBy_phase_mem ..)
  · cases i with
    | primetest => exact primetestStep_phase (current_primetest hc) ha
    | keygen L => exact keygenStep_phase ha
    | _ =>
      have hp := (current_oneStep hc (by simp) (by simp)).1
      exact Or.inr (by simp [hp, advanceOf_oneStep_phase (by simp) (by simp) ha, phaseArrows])
  · exact Or.inl rfl

end Graph

/-- Settles O9: by `step_next` only a command's transition and a reset change PHASE. -/
theorem phaseFollowsTheGraph : Obligations.PhaseFollowsTheGraph := by
  intro s t h
  rcases step_next h with ⟨e, rfl⟩ | ⟨e, i, he, -⟩ | ⟨-, e, op, rfl⟩ | ⟨e, tg, w, rfl, -⟩ | ⟨hreset, e, rfl⟩
  · exact Or.inl rfl
  · exact (exec_phase he).imp_right Or.inr
  · exact Or.inl rfl
  · left
    rw [writeTarget_frame]
  · exact Or.inr (Or.inl ⟨rfl, hreset⟩)

end Sys2Proof.Machine
end

section
/-! PROOFS. Commands from their CMD write to their end, and the draws of their steps: what a step runs (R25, R43), the
one-step commands (R44), PRIMETEST (R67, R69, R70), the acceptance and the shape check of KEYGEN (R71, R72), and draws
that the environment does not answer or answers out of range (R92). -/

namespace Sys2Proof.Machine

/-! ### What a step runs -/

/-- Settles O6: the CMD write by `step_cmdWrite_command`, the sequencer's move by `perform_sequencer`. -/
theorem stepRunsTheCommandWrittenOrInProgress : Obligations.StepRunsTheCommandWrittenOrInProgress := by
  intro s i hr
  refine ⟨fun w rest hp hd hw => step_cmdWrite_command hw hr hp hd, fun hc hq => ?_, fun rest hc hq => ?_⟩
  · rw [step_of_nil hq, perform_sequencer hr hc]
  · rw [step_of_cons hq]
    exact perform_sequencer (s := s.withPending rest) hr hc

/-! ### The one-step commands -/

/-- R47: the word a table row of 32 bits stands for. -/
theorem tableWord_toNat (w : Word) : tableWord 32 w.toNat = w := by
  rw [tableWord, Nat.mod_eq_of_lt w.isLt, BitVec.ofNat_toNat, BitVec.setWidth_eq]

/-- R26, R49: the EXEC step of a one-step command completes it, and only MODINV can end with an error. -/
theorem advanceOf_oneStep_completes {i : Instr} {s : State} {op : BitVec 4} (ho : oneStepCommand op = some i) :
    ∃ t, advanceOf i s = .next t ∧ t.phase = .idle ∧ t.done = true ∧ t.opc = s.opc ∧
      (t.err = .none ∨ i = .modinv) := by
  cases i with
  | primetest => exact absurd ho oneStepCommand_ne_primetest
  | keygen L => exact absurd ho oneStepCommand_ne_keygen
  | modinv =>
    refine ⟨_, rfl, ?_, ?_, ?_, Or.inr rfl⟩ <;> split <;> rfl
  | _ => exact ⟨_, rfl, rfl, rfl, rfl, Or.inl rfl⟩

/-- R48: an accepted one-step command is in EXEC after its CMD write, with no move to come. -/
theorem exists_step_of_placed_oneStep {s : State} {i : Instr} (hq : s.env.pending = [])
    (ho : oneStepCommand i.opcode = some i) (hwf : i.wellFormed = true) (hc : refusedBy i s = false) :
    ∃ u : State, step (placeWord s (encode i)) = .next u ∧
      u.phase = .exec ∧ u.opc = i.opcode ∧ u.env.pending = [] ∧ u.env.resetIn = false := by
  have hi : i ≠ .primetest := fun h => oneStepCommand_ne_primetest (h ▸ ho)
  have hk : ∀ L, i ≠ .keygen L := fun L h => oneStepCommand_ne_keygen (h ▸ ho)
  have hcheck : ¬refusedBy i ((placeWord s (encode i)).withPending s.env.pending) = true := by
    rw [Bool.not_eq_true, ← hc]
    cases i <;> rfl
  have htaken := step_cmdWrite_command (s := placeWord s (encode i)) (rest := s.env.pending) rfl rfl rfl
    (decode_encode hwf)
  rw [exec_accepted_oneStep hi hk rfl hcheck] at htaken
  exact ⟨_, htaken, rfl, rfl, hq, rfl⟩

/-- R44: the sequencer completes a one-step command in EXEC. -/
theorem exists_step_of_exec {u : State} {i : Instr} (hp : u.phase = .exec) (ho : oneStepCommand u.opc = some i)
    (hq : u.env.pending = []) (hr : u.env.resetIn = false) :
    ∃ t, step u = .next t ∧ t.phase = .idle ∧ t.done = true ∧ t.opc = u.opc ∧ (t.err = .none ∨ i = .modinv) := by
  rw [step_of_nil hq, perform_sequencer hr ((State.current_of_exec hp).trans ho), exec_of_opc hp ho]
  exact advanceOf_oneStep_completes ho

/-- R44, R48: a one-step command written to a block that does not refuse it is complete after two steps. -/
theorem run_two_of_oneStep {s : State} {i : Instr} (hq : s.env.pending = [])
    (ho : oneStepCommand i.opcode = some i) (hwf : i.wellFormed = true) (hc : refusedBy i s = false) :
    ∃ t : State, core.run 2 (s.withFetchWord 32 (encode i).toNat) = .next t ∧
      t.phase = .idle ∧ t.done = true ∧ t.opc = i.opcode ∧ (t.err = .none ∨ i = .modinv) := by
  obtain ⟨u, hu, hp, hop, hqu, hr⟩ := exists_step_of_placed_oneStep hq ho hwf hc
  obtain ⟨t, ht, htp, htd, hto, hte⟩ := exists_step_of_exec hp (by rw [hop, ho]) hqu hr
  rw [State.withFetchWord, tableWord_toNat, run_of_step hu, run_of_step ht, run_zero]
  exact ⟨t, rfl, htp, htd, hto.trans hop, hte⟩

/-- Settles O8: the hypotheses say that the argument check passes, and then `run_two_of_oneStep`. -/
theorem oneStepCommandsCompleteInTwoSteps : Obligations.OneStepCommandsCompleteInTwoSteps := by
  intro s i _ hq _ hargs
  rcases hargs with ⟨rfl, hodd, ha, hb⟩ | ⟨rfl, hm⟩ | rfl | ⟨rfl, hodd⟩ | ⟨rfl, hm⟩ | ⟨rfl, hn, hd⟩ | ⟨rfl, hn, he⟩ <;>
    refine run_two_of_oneStep hq rfl rfl (Bool.eq_false_iff.2 ?_)
  · exact not_montmulRefused_of_reduced hodd ha hb
  · exact mt (modexpRefused_iff s).1 hm
  · simp [refusedBy]
  · exact not_jacobiRefused_of_odd hodd
  · exact mt (modinvRefused_iff s).1 hm
  · exact mt (ldkeyPubRefused_iff s).1 (not_or.2 ⟨hn, hd⟩)
  · exact mt (ldkeyPrivRefused_iff s).1 (not_or.2 ⟨hn, he⟩)

/-! ### PRIMETEST -/

/-- Settles O19: the check looks at ROUNDS alone, and the acceptance actions are the copies. -/
theorem primetestCopiesItsOperands : Obligations.PrimetestCopiesItsOperands := by
  refine ⟨decode_encode (i := .primetest) rfl, fun s hp => ⟨fun h0 => ?_, fun h0 => ?_⟩⟩
  · exact exec_refused hp ((primetestRefused_iff s).2 h0)
  · exact exec_accepted hp (Bool.eq_false_iff.2 (mt (primetestRefused_iff s).1 h0))

/-- R69: what the PT_TRIAL step makes of the witness v and leaves the environment e. -/
def afterTrial (s : State) (v : Nat) (e : Env) : State :=
  if trial s.c v then { s with env := e, prime := true, done := true, err := .none, phase := .idle }
  else if s.t = 1 then { s with env := e, t := 0, prime := false, done := true, err := .none, phase := .idle }
  else { s with env := e, t := s.t - 1 }

section Trials
variable {s : State}

/-- R69: the PT_TRIAL step once its draw is answered. -/
theorem ptTrialStep_of_draw {v : Nat} {e : Env} (hd : draw (.range 2 (s.c - 1)) s.env = .ok (v, e)) :
    ptTrialStep s = .next (afterTrial s v e) := by
  rw [ptTrialStep, hd, settle_ok, afterTrial]
  by_cases ht : trial s.c v = true
  · simp only [ht, if_true, State.verdict, State.setPrime, State.complete]
  · by_cases h1 : s.t = 1
    · have h0 : s.t - 1 = 0 := by rw [h1]; rfl
      simp only [ht, h1, Bool.false_eq_true, if_false, if_true, State.verdict, State.setPrime, State.complete]
      rfl
    · have h0 : s.t - 1 ≠ 0 := fun h => h1 (sub_eq_zero.1 h)
      simp only [ht, h0, h1, if_false, Bool.false_eq_true]

/-- R69, R92: with an environment that answers, the PT_TRIAL step takes one free answer in the range of its request. -/
theorem exists_ptTrialStep_free (hc : 3 ≤ s.c) (ha : s.env.answers = []) (hs : s.env.rngSilent = false) :
    ∃ v, 2 ≤ v ∧ v ≤ s.c - 1 ∧
      ptTrialStep s = .next (afterTrial s v { s.env with drawn := s.env.drawn + 1 }) := by
  have hd := draw_free (q := .range 2 (s.c - 1)) ha hs (by rw [Request.low_range, Request.high_range]; omega)
  obtain ⟨hl, hh, -⟩ := draw_ok hd
  exact ⟨_, hl, hh, ptTrialStep_of_draw hd⟩

end Trials

/-- Settles O21: the draw is the waiting answer or a free one, and `afterTrial` is what the step makes of it. -/
theorem primetestTrialStepFollowsItsDraw : Obligations.PrimetestTrialStepFollowsItsDraw := by
  intro s hp hc _ _ after
  rw [exec_primetest_of_ptTrial hp]
  refine ⟨fun v rest ha hl hh => ?_, exists_ptTrialStep_free hc⟩
  exact ptTrialStep_of_draw (draw_waiting (q := .range 2 (s.c - 1)) ha hl hh)

/-- R69: a trial ends PRIMETEST, or leaves one trial less of at least one. -/
theorem afterTrial_cases (s : State) (v : Nat) (e : Env) :
    ((afterTrial s v e).phase = .idle ∧ (afterTrial s v e).done = true ∧ (afterTrial s v e).err = .none) ∨
      (s.t ≠ 1 ∧ afterTrial s v e = { s with env := e, t := s.t - 1 }) := by
  unfold afterTrial
  split_ifs with ht h1
  · exact Or.inl ⟨rfl, rfl, rfl⟩
  · exact Or.inl ⟨rfl, rfl, rfl⟩
  · exact Or.inr ⟨h1, rfl⟩

/-- R44, R70 (c): the trials of a C of at least 3 end within T steps when the environment answers: each trial ends the
command or takes one off T. -/
theorem run_of_ptTrial (n : Nat) : ∀ {s : State}, s.t.toNat = n → s.t ≠ 0 → s.phase = .ptTrial → 3 ≤ s.c →
    s.env.pending = [] → s.env.resetIn = false → s.env.answers = [] → s.env.rngSilent = false →
    ∃ (k : Nat) (t : State), k ≤ n ∧ core.run k s = .next t ∧ t.phase = .idle ∧ t.done = true ∧ t.err = .none := by
  induction n with
  | zero => exact fun hn h0 => absurd (BitVec.eq_of_toNat_eq hn) h0
  | succ n ih =>
    intro s hn h0 hp hc hq hr ha hs
    obtain ⟨v, -, -, htrial⟩ := exists_ptTrialStep_free hc ha hs
    have hstep : step s = .next (afterTrial s v { s.env with drawn := s.env.drawn + 1 }) := by
      rw [step_of_nil hq, perform_sequencer hr (by rw [State.current, hp]), exec_primetest_of_ptTrial hp, htrial]
    rcases afterTrial_cases s v { s.env with drawn := s.env.drawn + 1 } with hend | ⟨h1, hafter⟩
    · exact ⟨1, _, by omega, by rw [run_of_step hstep, run_zero], hend⟩
    · have ht1 : s.t.toNat ≠ 1 := fun h => h1 (BitVec.eq_of_toNat_eq h)
      have htn : (s.t - 1).toNat = n := by bv_omega
      have ht0 : s.t - 1 ≠ 0 := fun h => h1 (sub_eq_zero.1 h)
      rw [hafter] at hstep
      obtain ⟨k, t, hk, hrun, hend⟩ := ih (s := { s with env := { s.env with drawn := s.env.drawn + 1 }, t := s.t - 1 })
        htn ht0 hp hc hq hr ha hs
      exact ⟨k + 1, t, by omega, by rw [run_of_step hstep, hrun], hend⟩

/-- R68: the PT_CHECK step ends PRIMETEST or goes on to the trials of a C of at least 3. -/
theorem ptCheckStep_cases (s : State) :
    (∃ p, ptCheckStep s = .next (s.verdict p)) ∨ (3 ≤ s.c ∧ ptCheckStep s = .next (s.enter .ptTrial)) := by
  unfold ptCheckStep
  split_ifs with hlt h2 heven
  · exact Or.inl ⟨_, rfl⟩
  · exact Or.inl ⟨_, rfl⟩
  · exact Or.inl ⟨_, rfl⟩
  · exact Or.inr ⟨by omega, rfl⟩

/-- Settles O23: one step for PT_CHECK and, by `run_of_ptTrial`, at most T for the trials. -/
theorem primetestCompletesWithinItsRounds : Obligations.PrimetestCompletesWithinItsRounds := by
  intro s hp ht hq hr ha hs
  have hstep : step s = ptCheckStep s := by
    rw [step_of_nil hq, perform_sequencer hr (by rw [State.current, hp]), exec_primetest_of_ptCheck hp]
  rcases ptCheckStep_cases s with ⟨p, hcheck⟩ | ⟨hc, hcheck⟩ <;> rw [hcheck] at hstep
  · exact ⟨1, _, by omega, by rw [run_of_step hstep, run_zero], rfl, rfl, rfl⟩
  · obtain ⟨k, t, hk, hrun, hend⟩ := run_of_ptTrial s.t.toNat (s := s.enter .ptTrial) rfl ht rfl hc hq hr ha hs
    exact ⟨k + 1, t, by omega, by rw [run_of_step hstep, hrun], hend⟩

/-! ### KEYGEN: acceptance and shape check -/

/-- Settles O24: the check of R71, and L and H are stored in 16 bits, which hold every immediate. -/
theorem keygenChecksItsLengthAndZeroesTheKeyFile : Obligations.KeygenChecksItsLengthAndZeroesTheKeyFile := by
  intro s L hL hp
  refine ⟨fun hargs => ?_, fun h0 heven hle hrounds => ?_⟩
  · exact exec_refused hp ((keygenRefused_iff s L).2 (by tauto))
  · have hc : ¬keygenRefused L s = true := by
      rw [keygenRefused_iff]
      rintro (h | h | h | h)
      · exact h0 h
      · omega
      · exact hrounds h
      · omega
    refine ⟨_, exec_accepted hp (Bool.eq_false_iff.2 hc), rfl, ?_, ?_⟩
    · exact (BitVec.toNat_ofNat ..).trans (Nat.mod_eq_of_lt hL)
    · exact (BitVec.toNat_ofNat ..).trans (Nat.mod_eq_of_lt (by omega))

section Shape
variable {s : State}

/-- R72: the product of two numbers of H bits has 2H bits exactly when it is at least `2^(2H-1)`. -/
theorem bitlen_mul_eq_iff {x y l h : Nat} (hl : l = 2 * h) (h0 : h ≠ 0) (hx : x < 2 ^ h) (hy : y < 2 ^ h) :
    bitlen (x * y) = l ↔ 2 ^ (l - 1) ≤ x * y := by
  have hlt : x * y < 2 ^ l := by
    rw [hl, two_mul, pow_add]
    exact Nat.mul_lt_mul'' hx hy
  rw [bitlen_eq_iff (by omega), and_iff_left hlt]

/-- R72: the KG_SHAPE step once both its draws are answered. -/
theorem exec_keygen_of_shape_draws {x y : Nat} {e e' : Env} (hp : s.phase = .kgShape) (h0 : s.h ≠ 0)
    (hl : s.l.toNat = 2 * s.h.toNat) (hx : draw (.bits s.h.toNat) s.env = .ok (x, e))
    (hy : draw (.bits s.h.toNat) e = .ok (y, e')) :
    exec (.keygen s.l.toNat) s = .next { s with
      env := e', phase := if 2 ^ (s.l.toNat - 1) ≤ x * y then .kgP else .kgShape } := by
  have hh : s.h.toNat ≠ 0 := fun h => h0 (BitVec.eq_of_toNat_eq h)
  rw [exec_keygen_of_kgShape hp, kgShapeStep_of_draws hx hy]
  simp only [bitlen_mul_eq_iff hl hh (draw_bits hx).2 (draw_bits hy).2]

/-- R92: a free answer to `Bits(n)`, of exactly n bits. -/
theorem exists_draw_bits_free {n : Nat} {e : Env} (hn : n ≠ 0) (ha : e.answers = []) (hs : e.rngSilent = false) :
    ∃ v, 2 ^ (n - 1) ≤ v ∧ v < 2 ^ n ∧ draw (.bits n) e = .ok (v, { e with drawn := e.drawn + 1 }) := by
  have hpow : 2 ^ (n - 1) ≤ 2 ^ n - 1 :=
    Nat.le_sub_one_of_lt (Nat.pow_lt_pow_right (by norm_num) (by omega))
  have hd := draw_free (q := .bits n) ha hs hpow
  obtain ⟨hl, -, -⟩ := draw_ok hd
  exact ⟨_, hl, (draw_bits hd).2, hd⟩

/-- R92: a waiting answer of n bits answers `Bits(n)`. -/
theorem draw_bits_waiting {n v : Nat} {e : Env} {rest : List Nat} (ha : e.answers = v :: rest)
    (hl : 2 ^ (n - 1) ≤ v) (hu : v < 2 ^ n) : draw (.bits n) e = .ok (v, { e with answers := rest }) :=
  draw_waiting ha hl (Nat.le_sub_one_of_lt hu)

end Shape

/-- Settles O25: the two draws are the waiting answers or free ones, and the check looks at their product alone. -/
theorem keygenShapeCheckTakesTwoDraws : Obligations.KeygenShapeCheckTakesTwoDraws := by
  intro s hp h0 hl
  refine ⟨fun x y rest ha hxl hxu hyl hyu => ?_, fun ha hs => ?_⟩
  · exact exec_keygen_of_shape_draws hp h0 hl (draw_bits_waiting ha hxl hxu) (draw_bits_waiting rfl hyl hyu)
  · have hh : s.h.toNat ≠ 0 := fun h => h0 (BitVec.eq_of_toNat_eq h)
    obtain ⟨x, hxl, hxu, hx⟩ := exists_draw_bits_free hh ha hs
    obtain ⟨y, hyl, hyu, hy⟩ := exists_draw_bits_free (e := { s.env with drawn := s.env.drawn + 1 }) hh ha hs
    exact ⟨x, y, hxl, hxu, hyl, hyu, exec_keygen_of_shape_draws hp h0 hl hx hy⟩

/-! ### Draws outside the contract of the RNG port -/

section Contract
variable {s : State} {x : DrawStop}

/-- R69, R92: without the answer to its draw the PT_TRIAL step does not go on. -/
theorem ptTrialStep_of_error (hd : draw (.range 2 (s.c - 1)) s.env = .error x) :
    ptTrialStep s = settle s (.error x) := by
  rw [ptTrialStep, hd]

/-- R72, R92: without the answer to its first draw the KG_SHAPE step does not go on. -/
theorem kgShapeStep_of_error (hd : draw (.bits s.h.toNat) s.env = .error x) :
    kgShapeStep s = settle s (.error x) := by
  rw [kgShapeStep, hd]

/-- R72, R92: without the answer to its second draw the KG_SHAPE step does not go on. -/
theorem kgShapeStep_of_second_error {v : Nat} {e : Env} (hv : draw (.bits s.h.toNat) s.env = .ok (v, e))
    (hd : draw (.bits s.h.toNat) e = .error x) : kgShapeStep s = settle s (.error x) := by
  rw [kgShapeStep, hv]
  simp only [hd]

/-- R73, R74, R92: without the answer to its draw there is no candidate. -/
theorem candidate_of_error (hd : draw (.bits s.h.toNat) s.env = .error x) : candidate s = .error x := by
  rw [candidate, hd]

/-- R73, R74, R92: a candidate whose test lacks an answer is none. -/
theorem candidate_of_test_error {c : Nat} {e : Env} (hc : draw (.bits s.h.toNat) s.env = .ok (c, e))
    (ht : pTest c s.rounds.toNat e = .error x) : candidate s = .error x := by
  rw [candidate, hc]
  simp only [ht]

/-- R73, R74, R92: without a tested candidate the KG_P or KG_Q step does not go on. -/
theorem exec_keygen_of_candidate_error (hp : s.phase = .kgP ∨ s.phase = .kgQ) (h : candidate s = .error x) :
    exec (.keygen s.l.toNat) s = settle s (.error x) := by
  rcases hp with hp | hp
  · rw [exec_keygen_of_kgP hp, kgPStep, h]
  · rw [exec_keygen_of_kgQ hp, kgQStep, h]

/-- R92: what stands on the RNG port: the request of the trial, or of H bits. -/
theorem request_eq_some {q : Request} (h : s.request = some q) :
    (s.phase = .ptTrial ∧ q = .range 2 (s.c - 1)) ∨
      ((s.phase = .kgShape ∨ s.phase = .kgP ∨ s.phase = .kgQ) ∧ q = .bits s.h.toNat) := by
  cases hp : s.phase <;> simp_all [State.request, Phase.draws]

/-- R92: the pending step of a command in progress goes nowhere without the answer to the request on the port. -/
theorem exec_of_request_error {i : Instr} {q : Request} (hc : s.current = some i) (hq : s.request = some q)
    (hd : draw q s.env = .error x) : exec i s = settle s (.error x) := by
  rcases request_eq_some hq with ⟨hp, rfl⟩ | ⟨hp | hp | hp, rfl⟩ <;> rw [State.current, hp] at hc <;> cases hc
  · rw [exec_primetest_of_ptTrial hp, ptTrialStep_of_error hd]
  · rw [exec_keygen_of_kgShape hp, kgShapeStep_of_error hd]
  · exact exec_keygen_of_candidate_error (Or.inl hp) (candidate_of_error hd)
  · exact exec_keygen_of_candidate_error (Or.inr hp) (candidate_of_error hd)

/-- R66, R92: after witnesses that do not match, a trial without an answer ends the test of an odd candidate. -/
theorem pTest_of_later_error {c r : Nat} {e : Env} {ws rest : List Nat} (hc : 3 ≤ c) (hodd : c % 2 = 1)
    (ha : e.answers = ws ++ rest) (hws : ∀ w ∈ ws, 2 ≤ w ∧ w ≤ c - 1 ∧ trial c w = false) (hr : ws.length < r)
    (hd : draw (.range 2 (c - 1)) { e with answers := rest } = .error x) : pTest c r e = .error x := by
  obtain ⟨k, rfl⟩ : ∃ k, r = ws.length + (k + 1) := ⟨r - ws.length - 1, by omega⟩
  rw [pTest_of_odd hc hodd, pTrials_append ha hws, pTrials_error hd]

/-- R73, R74, R92: with a waiting candidate of H bits and witnesses that do not match, the next witness is drawn, and
without it the KG_P or KG_Q step does not go on. -/
theorem exec_keygen_of_later_error {c : Nat} {ws rest : List Nat} (hp : s.phase = .kgP ∨ s.phase = .kgQ)
    (hl : 2 ^ (s.h.toNat - 1) ≤ c) (hu : c < 2 ^ s.h.toNat) (hc : 3 ≤ c) (hodd : c % 2 = 1)
    (hr : ws.length < s.rounds.toNat) (hws : ∀ w ∈ ws, 2 ≤ w ∧ w ≤ c - 1 ∧ trial c w = false)
    (ha : s.env.answers = c :: (ws ++ rest))
    (hd : draw (.range 2 (c - 1)) { s.env with answers := rest } = .error x) :
    exec (.keygen s.l.toNat) s = settle s (.error x) :=
  exec_keygen_of_candidate_error hp
    (candidate_of_test_error (draw_bits_waiting ha hl hu) (pTest_of_later_error hc hodd rfl hws hr hd))

end Contract

/-- Settles O49: an answer out of range is refused and a silent environment leaves the step untaken, by
`exec_of_request_error`. -/
theorem drawsOutsideTheContract : Obligations.DrawsOutsideTheContract := by
  intro s i q hc hq hrange
  refine ⟨fun v rest ha hv => ?_, fun ha hs => ?_⟩
  · rw [exec_of_request_error hc hq (draw_outOfRange ha hrange hv), settle_outOfRange]
  · rw [exec_of_request_error hc hq (draw_silent ha hs), settle_noAnswer]

/-- Settles O59: the second draw of KG_SHAPE by `kgShapeStep_of_second_error`, a further witness of KG_P and KG_Q by
`exec_keygen_of_later_error`. -/
theorem laterDrawsOutsideTheContract : Obligations.LaterDrawsOutsideTheContract := by
  refine ⟨fun s x hp hl hu => ⟨fun y rest ha hy => ?_, fun ha hs => ?_⟩,
    fun s c ws hp hl hu hc hodd hr hws => ⟨fun v rest ha hv => ?_, fun ha hs => ?_⟩⟩
  · have hd : draw (.bits s.h.toNat) { s.env with answers := y :: rest } = .error .outOfRange :=
      draw_outOfRange rfl (hl.trans (Nat.le_sub_one_of_lt hu))
        (hy.imp_right fun h => (Nat.sub_one_lt (Nat.two_pow_pos _).ne').trans_le h)
    rw [exec_keygen_of_kgShape hp, kgShapeStep_of_second_error (draw_bits_waiting ha hl hu) hd, settle_outOfRange]
  · have hd : draw (.bits s.h.toNat) { s.env with answers := [] } = .error .noAnswer := draw_silent rfl hs
    rw [exec_keygen_of_kgShape hp, kgShapeStep_of_second_error (draw_bits_waiting ha hl hu) hd, settle_noAnswer]
  · have hd : draw (.range 2 (c - 1)) { s.env with answers := v :: rest } = .error .outOfRange :=
      draw_outOfRange rfl (Nat.le_sub_one_of_lt hc) hv
    rw [exec_keygen_of_later_error hp hl hu hc hodd hr hws ha hd, settle_outOfRange]
  · have hd : draw (.range 2 (c - 1)) { s.env with answers := [] } = .error .noAnswer := draw_silent rfl hs
    rw [exec_keygen_of_later_error hp hl hu hc hodd hr hws (by rw [ha, List.append_nil]) hd, settle_noAnswer]

end Sys2Proof.Machine
end

section
/-! PROOFS. The moves of the agents: the host's reads, writes and polls (R37, R38, R53), whole registers over the port
(R34, R53), the reset input (R96) and the answers of the RNG environment (R92, R97). -/

namespace Sys2Proof.Machine

open Sys2Proof.Safety

/-! ### Host reads and writes -/

/-- R37: out of reset the port reads the current word. -/
theorem portRead_of_released {s : State} (hr : s.env.resetIn = false) (p : PortIndex) :
    s.portRead p = s.hostRead p := by
  rw [State.portRead, hr]
  rfl

/-- R37: a host read, out of reset. -/
theorem step_hostRead {s : State} {p : PortIndex} {rest : List Event} (h : s.env.pending = .hostRead p :: rest)
    (hr : s.env.resetIn = false) :
    step s = .next { s with
      env := { s.env with pending := rest, received := s.env.received ++ [s.hostRead p] } } := by
  rw [step_of_cons h, perform, portRead_of_released (s := s.withPending rest) hr, State.withPending, hostRead_env]
  rfl

/-- Settles O38, by `step_hostRead`. -/
theorem hostReadChangesNothing : Obligations.HostReadChangesNothing :=
  fun _ _ _ h hr => step_hostRead h hr

/-- R20, R38: a write of 1 clears the flag, a write of 0 leaves it. -/
theorem and_not_eq_ite (f b : Bool) : (f && !b) = if b then false else f := by
  cases b <;> simp

/-- R33: the offsets from 0x1000 to 0x33FC are the windows. -/
theorem exists_target_window {p : PortIndex} (hl : 0x1000 ≤ 4 * p.val) (hu : 4 * p.val < 0x3400) :
    ∃ x j, target p = .window x j := by
  have ht := target_at p
  cases htg : target p with rw [htg, Target.At] at ht
  | window x j => exact ⟨x, j, rfl⟩
  | _ => omega

/-- R38: a write to a window of a busy block is ignored. -/
theorem hostWrite_window_of_busy {s : State} {p : PortIndex} (hl : 0x1000 ≤ 4 * p.val) (hu : 4 * p.val < 0x3400)
    (hp : s.phase ≠ .idle) (w : Word) : hostWrite s p w = .next s := by
  obtain ⟨x, j, htg⟩ := exists_target_window hl hu
  rw [hostWrite_of_ne_cmd (by simp [htg]), htg, State.writeTarget, if_neg hp]

/-- R38: a ROUNDS write is stored while idle and ignored while busy. -/
theorem hostWrite_rounds (s : State) (w : Word) :
    hostWrite s (portIndex 0x000C) w = .next (if s.phase = .idle then { s with rounds := w } else s) := by
  rw [hostWrite_of_ne_cmd (by simp), target_rounds, State.writeTarget]

/-- Settles O41: one lemma per target. -/
theorem hostWriteFollowsItsTarget : Obligations.HostWriteFollowsItsTarget := by
  intro s w
  refine ⟨fun hp => ?_, ?_, ?_, fun hp => ?_, fun hp => ?_, fun p hl hu hp => ?_⟩
  · rw [hostWrite, if_pos target_cmd, if_neg hp]
  · rw [hostWrite_status, State.writeStatus, and_not_eq_ite, and_not_eq_ite]
  · rw [hostWrite_ctrl, State.writeCtrl]
  · rw [hostWrite_rounds, if_pos hp]
  · rw [hostWrite_rounds, if_neg hp]
  · exact hostWrite_window_of_busy hl (by omega) hp w

/-- R20, R53: what WAIT looks at is DONE. -/
theorem hostRead_status_done (s : State) : (s.hostRead (portIndex 0x0004)).getLsbD 1 = s.done := by
  rw [State.hostRead, target_status, State.readTarget, statusWord_done]

/-- R53: one poll of WAIT, out of reset. -/
theorem pollDone_of_released {s : State} (hr : s.env.resetIn = false) :
    pollDone s =
      if s.done then s.receive (s.hostRead (portIndex 0x0004))
      else (s.receive (s.hostRead (portIndex 0x0004))).withPending (.sequencer :: .hostWait :: s.env.pending) := by
  simp only [pollDone, portRead_of_released hr, hostRead_status_done]
  rfl

/-- Settles O45: the poll reads STATUS, whose bit 1 is DONE. -/
theorem waitPollsStatusUntilDone : Obligations.WaitPollsStatusUntilDone := by
  intro s rest h hr polled
  have hread : (s.withPending rest).hostRead (portIndex 0x0004) = s.hostRead (portIndex 0x0004) := hostRead_env ..
  rw [step_of_cons h, perform, pollDone_of_released (s := s.withPending rest) hr, hread, State.withPending_done]
  refine ⟨fun hd => ?_, fun hd => ?_⟩
  · rw [if_pos hd]
    rfl
  · rw [if_neg (by simp [hd])]
    rfl

/-! ### Whole registers over the port -/

/-- The number whose low `k` words are those of `v` and whose other bits are those of `x`. -/
def spliceWords (x v k : Nat) : Nat := 2 ^ (32 * k) * (x / 2 ^ (32 * k)) + v % 2 ^ (32 * k)

section Splice
variable {x v k : Nat}

theorem spliceWords_testBit (x v k i : Nat) :
    (spliceWords x v k).testBit i = if i < 32 * k then v.testBit i else x.testBit i := by
  rw [spliceWords, Nat.testBit_two_pow_mul_add _ (Nat.mod_lt _ (Nat.two_pow_pos _))]
  split
  · rename_i hi
    simp [Nat.testBit_mod_two_pow, hi]
  · rename_i hi
    rw [Nat.testBit_div_two_pow, Nat.sub_add_cancel (by omega)]

@[simp] theorem spliceWords_zero (x v : Nat) : spliceWords x v 0 = x := by
  simp [spliceWords, Nat.mod_one]

/-- R34: writing word `k` of `v` after its lower words. -/
theorem putWord_spliceWords (x v k : Nat) :
    putWord (spliceWords x v k) k (wordOf v k) = spliceWords x v (k + 1) := by
  refine Nat.eq_of_testBit_eq fun i => ?_
  rw [putWord_testBit, spliceWords_testBit, spliceWords_testBit, wordOf_getLsbD]
  rcases lt_trichotomy (i / 32) k with hi | hi | hi
  · rw [if_neg (by omega), if_pos (by omega), if_pos (by omega)]
  · rw [if_pos (by omega), if_pos (by omega), Nat.add_sub_cancel' (by omega), decide_eq_true (by omega),
      Bool.true_and]
  · rw [if_neg (by omega), if_neg (by omega), if_neg (by omega)]

/-- R34: with all words within the width spliced in, `v` alone is left. -/
theorem spliceWords_of_lt (hx : x < 2 ^ (32 * k)) (hv : v < 2 ^ (32 * k)) : spliceWords x v k = v := by
  rw [spliceWords, Nat.div_eq_of_lt hx, Nat.mod_eq_of_lt hv, Nat.mul_zero, Nat.zero_add]

end Splice

section Transfer
variable {s : State} {x : BigReg} {k : Nat}

/-- R6: a legal KMAX is LW words, at most 256. -/
theorem kmax_eq_lw (hc : ConfigOk s) : s.kmax = 32 * s.lw ∧ s.lw ≤ 256 := by
  obtain ⟨hdvd, -, hle⟩ := hc
  unfold State.lw
  omega

theorem State.setBig_setBig (s : State) (x : BigReg) (a b : Nat) : (s.setBig x a).setBig x b = s.setBig x b := by
  cases x <;> rfl

theorem State.withPending_setBig (s : State) (x : BigReg) (a : Nat) (evs evs' : List Event) :
    ((s.withPending evs).setBig x a).withPending evs' = (s.withPending evs').setBig x a := by
  cases x <;> rfl

/-- R34, R38: the host's write of word `k` of an operand register, out of reset and idle. -/
theorem step_windowWrite {a : Nat} {w : Word} {evs : List Event} (hx : x = .A ∨ x = .B ∨ x = .M)
    (hp : s.phase = .idle) (hr : s.env.resetIn = false) (hk : k < s.lw) (hlw : s.lw ≤ 256) :
    step ((s.withPending (.hostWrite (windowIndex x k) w :: evs)).setBig x a) =
      .next ((s.withPending evs).setBig x (putWord a k w)) := by
  have htg : target (windowIndex x k) = .window x k := target_windowIndex x (by omega)
  have hk' : k < ((s.withPending evs).setBig x a).lw := by rwa [State.lw, State.setBig_kmax]
  rw [step_of_cons (by rw [State.setBig_env]; rfl), State.withPending_setBig, perform,
    if_neg (by simp [hr]), hostWrite_of_ne_cmd (by simp [htg]), htg, State.writeTarget, if_pos (by simp [hp]),
    State.windowWrite, if_pos hk', State.big_setBig_operand hx, State.setBig_setBig]

/-- R53: the moves of WRB from word `k` on. -/
def writeWords (x : BigReg) (v k n : Nat) : List Event :=
  (List.range' k n).map fun j => .hostWrite (windowIndex x j) (wordOf v j)

/-- R53: the moves of RDB from word `k` on. -/
def readWords (x : BigReg) (k n : Nat) : List Event :=
  (List.range' k n).map fun j => .hostRead (windowIndex x j)

theorem scriptWrb_eq (lw : Nat) (x : BigReg) (v : Nat) : scriptWrb lw x v = writeWords x v 0 lw := by
  rw [scriptWrb, writeWords, List.range_eq_range']

theorem scriptRdb_eq (lw : Nat) (x : BigReg) : scriptRdb lw x = readWords x 0 lw := by
  rw [scriptRdb, readWords, List.range_eq_range']

/-- R34, R53: the writes of words `k` to `k + n - 1` of `v`, after those of the words below `k`. -/
theorem run_writeWords {v : Nat} {rest : List Event} (hx : x = .A ∨ x = .B ∨ x = .M) (hp : s.phase = .idle)
    (hr : s.env.resetIn = false) (hlw : s.lw ≤ 256) (n : Nat) : ∀ k, k + n ≤ s.lw →
    core.run n ((s.withPending (writeWords x v k n ++ rest)).setBig x (spliceWords (s.big x) v k)) =
      .next ((s.withPending rest).setBig x (spliceWords (s.big x) v (k + n))) := by
  induction n with
  | zero => exact fun k _ => run_zero _
  | succ n ih =>
    intro k hk
    have hstep := step_windowWrite (a := spliceWords (s.big x) v k) (w := wordOf v k)
      (evs := writeWords x v (k + 1) n ++ rest) hx hp hr (show k < s.lw by omega) hlw
    rw [putWord_spliceWords] at hstep
    rw [writeWords, List.range'_succ, List.map_cons, List.cons_append]
    refine (run_of_step hstep).trans ?_
    rw [ih (k + 1) (by omega), Nat.add_right_comm, Nat.add_assoc]

/-- R34, R37: the word `k` of a window that exists. -/
theorem hostRead_windowIndex (hk : k < s.lw) (hlw : s.lw ≤ 256) :
    s.hostRead (windowIndex x k) = wordOf (s.big x) k := by
  rw [State.hostRead, target_windowIndex x (by omega), State.readTarget, State.windowRead, if_pos hk]

/-- R34, R53: the reads of words `k` to `k + n - 1`, low word first, after the words `got`. -/
theorem run_readWords {rest : List Event} (hr : s.env.resetIn = false) (hlw : s.lw ≤ 256) (n : Nat) :
    ∀ k got, k + n ≤ s.lw →
    core.run n { s with env := { s.env with pending := readWords x k n ++ rest, received := got } } =
      .next { s with
        env := { s.env with
          pending := rest, received := got ++ (List.range' k n).map (wordOf (s.big x)) } } := by
  induction n with
  | zero =>
    intro k got _
    rw [List.range'_zero, List.map_nil, List.append_nil]
    exact run_zero _
  | succ n ih =>
    intro k got hk
    have hstep := step_hostRead (p := windowIndex x k) (rest := readWords x (k + 1) n ++ rest)
      (s := { s with env := { s.env with pending := readWords x k (n + 1) ++ rest, received := got } })
      (by rw [readWords, List.range'_succ]; rfl) hr
    rw [hostRead_env, hostRead_windowIndex (by omega) hlw] at hstep
    refine (run_of_step hstep).trans ((ih (k + 1) _ (by omega)).trans ?_)
    rw [List.range'_succ, List.map_cons, List.append_assoc, List.singleton_append]

end Transfer

/-- Settles O46: WRB by `run_writeWords`, whose last splice is the value; RDB by `run_readWords`. -/
theorem wrbAndRdbMoveTheWholeRegister : Obligations.WrbAndRdbMoveTheWholeRegister := by
  intro s x rest hc hr
  obtain ⟨hkmax, hlw⟩ := kmax_eq_lw hc
  refine ⟨fun v hx hp hv hbig hq => ?_, fun hq => ?_⟩
  · have hrun := run_writeWords (v := v) (rest := rest) hx hp hr hlw s.lw 0 (by omega)
    rw [hkmax] at hv hbig
    rw [spliceWords_zero, Nat.zero_add, spliceWords_of_lt hbig hv, ← scriptWrb_eq, ← hq] at hrun
    rcases hx with rfl | rfl | rfl <;> exact hrun
  · have hrun := run_readWords (x := x) (rest := rest) hr hlw s.lw 0 s.env.received (by omega)
    rw [← scriptRdb_eq, ← hq, ← List.range_eq_range'] at hrun
    exact hrun

/-! ### The reset input -/

section Reset
variable {s : State} {rest : List Event}

/-- R96: while the input is asserted the port reads the reset values. -/
theorem portRead_of_reset (hr : s.env.resetIn = true) (p : PortIndex) :
    s.portRead p = if 4 * p.val = 0x001C then s.config else 0 := by
  rw [State.portRead, if_pos hr, State.resetBlock, resetAt_hostRead]

/-- R96: while the input is asserted a host read receives the reset value of the word. -/
theorem step_hostRead_of_reset {p : PortIndex} (h : s.env.pending = .hostRead p :: rest)
    (hr : s.env.resetIn = true) :
    step s = .next { s with env := { s.env with
      pending := rest, received := s.env.received ++ [if 4 * p.val = 0x001C then s.config else 0] } } := by
  rw [step_of_cons h, perform, portRead_of_reset (s := s.withPending rest) hr]
  rfl

/-- R96: while the input is asserted the sequencer takes no step. -/
theorem perform_sequencer_of_reset (hr : s.env.resetIn = true) : perform .sequencer s = .next s := by
  rw [perform, if_pos hr]

/-- R96: while the input is asserted a host write is ignored. -/
theorem perform_hostWrite_of_reset (hr : s.env.resetIn = true) (p : PortIndex) (w : Word) :
    perform (.hostWrite p w) s = .next s := by
  rw [perform, if_pos hr]

/-- R96, R97: the reset transition. -/
theorem step_resetAssert (h : s.env.pending = .resetAssert :: rest) :
    step s = .next (State.resetAt s.config { s.env with pending := rest, answers := [], resetIn := true }) := by
  rw [step_of_cons h]
  rfl

end Reset

/-- Settles O47: one lemma per move. -/
theorem resetPutsEveryPieceOfStateBack : Obligations.ResetPutsEveryPieceOfStateBack := by
  intro s rest
  refine ⟨step_resetAssert, fun hr => ⟨fun h => ?_, fun h => ?_, fun p w h => ?_, fun p h => ?_⟩, fun h => ?_⟩
  · rw [step_of_cons h]
    exact perform_sequencer_of_reset (s := s.withPending rest) hr
  · rw [step_of_nil h, perform_sequencer_of_reset hr]
  · rw [step_of_cons h]
    exact perform_hostWrite_of_reset (s := s.withPending rest) hr p w
  · exact step_hostRead_of_reset h hr
  · rw [step_of_cons h]
    rfl

/-! ### The answers of the RNG environment -/

/-- R92: a request stands exactly in the drawing phases. -/
theorem request_isSome (s : State) : s.request.isSome = s.phase.draws := by
  unfold State.request
  split <;> simp_all

/-- R92, R97: an answer is kept when a request stands and the block is out of reset, else it is discarded. -/
theorem perform_rngAnswer (s : State) (v : Nat) :
    perform (.rngAnswer v) s =
      .next (if s.request.isSome && !s.env.resetIn then s.pushAnswer v else s) := by
  rw [perform, request_isSome]

/-- Settles O50: `perform_rngAnswer`, and after the reset transition the block is idle. -/
theorem answersReachOnlyAPendingDraw : Obligations.AnswersReachOnlyAPendingDraw := by
  intro s v rest
  refine ⟨fun h hreq hr => ?_, fun h hnone => ?_, fun t h ht => ?_⟩
  · have hkept : ((s.withPending rest).request.isSome && !(s.withPending rest).env.resetIn) = true := by
      rw [show (s.withPending rest).request = s.request from rfl, hreq]
      simp [hr]
    rw [step_of_cons h, perform_rngAnswer, if_pos hkept]
    rfl
  · have hdropped : ¬((s.withPending rest).request.isSome && !(s.withPending rest).env.resetIn) = true := by
      rw [show (s.withPending rest).request = s.request from rfl]
      rcases hnone with hnone | hr
      · simp [hnone]
      · simp [hr]
    rw [step_of_cons h, perform_rngAnswer, if_neg hdropped]
    rfl
  · rw [step_resetAssert h] at ht
    cases ht
    exact ⟨rfl, rfl⟩

end Sys2Proof.Machine
end
